-- ==== Sys2Proof/Word.lean ====
section
/-! DEFINITION. The word and byte types of the container frame codec (00_scope.md R10, R11, R13). -/

namespace Sys2Proof

/-- A register value, a bus value or an offset: 32 bits, bit 0 least significant (R10, R11). -/
abbrev Word := BitVec 32

/-- One byte of a buffer or of a container frame (R13). -/
abbrev Byte := BitVec 8

/-- R13: a `bytes` value is a finite list of 8-bit values. -/
abbrev Bytes := List Byte

/-- `bytes[16]`: a key or an initialization vector (R8, R181, R182). -/
abbrev Block16 := Vector Byte 16

end Sys2Proof
end

