-- ==== Sys2Proof/Syntax.lean ====
section
/-! DEFINITION. The commands of the block: one constructor per row of spec/opcode_table.json (30_encoding.md R113). -/

namespace Sys2Proof

/-- A legal command. No command carries an operand in its word (R112), so no constructor has a field. A word
that is no row of R113 is not an instruction: it decodes to ILLEGAL (`Sys2Proof.decode`). -/
inductive Instr where
  /-- OPCODE 0x0 (R252). -/
  | nop
  /-- OPCODE 0x1 (R200). -/
  | create
  /-- OPCODE 0x2 (R230). -/
  | recover
  /-- OPCODE 0x3 (R156). -/
  | pad
  /-- OPCODE 0x4 (R170). -/
  | crc32
  deriving DecidableEq, Repr

end Sys2Proof
end

