-- ==== Sys2Proof/WellFormed.lean ====
section
/-! DEFINITION. The command-word format CMDW and what makes a word of it well formed (30_encoding.md R110, R113, R115). -/

namespace Sys2Proof

/-- The two fields of the command word (R110): [3:0] OPCODE, [31:4] RSVD. -/
structure CmdW where
  opcode : BitVec 4
  rsvd   : BitVec 28
  deriving DecidableEq, Repr

/-- R110, R115: RSVD must be 0. -/
def CmdW.rsvdIsZero (c : CmdW) : Bool := decide (c.rsvd = 0#28)

/-- R113, R115: OPCODE 0x5..0xF is reserved. -/
def CmdW.opcodeIsAssigned (c : CmdW) : Bool := decide (c.opcode.toNat ≤ 4)

/-- A command word is well formed when both checks hold; every other word is illegal (R115). -/
def CmdW.wellFormed (c : CmdW) : Bool := c.rsvdIsZero && c.opcodeIsAssigned

/-- The fields of an instruction's word (the rows of R113). -/
def Instr.fields : Instr → CmdW
  | .nop     => ⟨0x0#4, 0#28⟩
  | .create  => ⟨0x1#4, 0#28⟩
  | .recover => ⟨0x2#4, 0#28⟩
  | .pad     => ⟨0x3#4, 0#28⟩
  | .crc32   => ⟨0x4#4, 0#28⟩

/-- An instruction is well formed when its fields are. Instructions have no operand that could be out of range
(R112), so this holds of each of them. -/
def Instr.wellFormed (i : Instr) : Bool := i.fields.wellFormed

end Sys2Proof
end

