-- ==== Sys2Proof/Decode.lean ====
section
/-! DEFINITION. Decoding a command word, total on the 32-bit words, and the encoder (30_encoding.md R110 to R115). -/

namespace Sys2Proof

/-- Why a word decodes to ILLEGAL (R115). -/
inductive IllegalWord where
  /-- RSVD ≠ 0. -/
  | rsvdNonzero
  /-- RSVD = 0 and OPCODE ∈ 0x5..0xF. -/
  | reservedOpcode
  deriving DecidableEq, Repr

/-- R110: the fields of a 32-bit word. -/
def CmdW.ofWord (w : Word) : CmdW := ⟨w.extractLsb' 0 4, w.extractLsb' 4 28⟩

/-- R110: the word with these fields. -/
def CmdW.toWord (c : CmdW) : Word := c.rsvd ++ c.opcode

/-- R113: the instruction of an OPCODE, if one is assigned. -/
def instrOfOpcode (op : BitVec 4) : Option Instr :=
  match op.toNat with
  | 0x0 => some .nop
  | 0x1 => some .create
  | 0x2 => some .recover
  | 0x3 => some .pad
  | 0x4 => some .crc32
  | _   => none

/-- R114: decoding. An `.error` answer is the spec's ILLEGAL, with the reason. -/
def decode (w : Word) : Except IllegalWord Instr :=
  if (CmdW.ofWord w).rsvd ≠ 0#28 then .error .rsvdNonzero
  else match instrOfOpcode (CmdW.ofWord w).opcode with
    | some i => .ok i
    | none   => .error .reservedOpcode

/-- R113: the one 32-bit word of an instruction. -/
def encode (i : Instr) : Word := i.fields.toWord

/-- What the decoder reads from an instruction whose bits are `w`, numbered as spec/opcode_table.json numbers them.
A command is one 32-bit word held in CMD (R35, R111), so the bits are that word. -/
def decodeTableWord (nbits w : Nat) : Option Instr :=
  match decode (BitVec.ofNat 32 (w % 2 ^ nbits)) with
  | .ok i    => some i
  | .error _ => none

end Sys2Proof
end

