-- ==== Sys2Proof/Config.lean ====
section
/-! DEFINITION. The fixed constants of the format, and what the spec leaves to the implementation or leaves free
(00_scope.md R8, R9; 42_cipher_port.md R182, R186). An `opaque` constant has no body: nothing can be proved of
its value, so a claim about the machine holds for every value it could have. -/

namespace Sys2Proof

/-- R8: PAGE_SIZE. -/
abbrev pageSize : Nat := 1024
/-- R8: KEY_LEN, the constant (the register of the same name is `Regs.keyLen`). -/
abbrev keyLenConst : Nat := 16
/-- R8: IV_LEN. -/
abbrev ivLenConst : Nat := 16
/-- R8, R131: HEADER_LEN. -/
abbrev headerLen : Nat := 36

/-- The cipher behind the port (R182): for every key, IV and length n, a permutation of the n-byte sequences.
A pair (Encrypt, Decrypt) that satisfies C-LEN, C-INV and C-DET is exactly such a family (R183: Encrypt(k, iv, ·)
is a bijection on the n-byte sequences and Decrypt is its inverse), so nothing more and nothing less than the three
named properties is assumed. Notes: notes/assumptions/2.md. -/
structure Cipher where
  perm : Block16 → Block16 → (n : Nat) → Equiv.Perm {b : Bytes // b.length = n}
  deriving Inhabited

/-- R9: SRC_CAP, 0 ≤ SRC_CAP ≤ 2^32 − 1, left open. `State.reset` builds the SRC buffer with this many cells. -/
opaque Config.srcCap : Fin 4294967296

/-- R9: DST_CAP, 0 ≤ DST_CAP ≤ 2^32 − 1, left open. `State.reset` builds the DST buffer with this many cells. -/
opaque Config.dstCap : Fin 4294967296

/-- R9, R185: CIPHER, left open; no algorithm is assumed. -/
opaque Config.cipher : Cipher

/-- R186: the random source. `Config.ivDraw k` is the 16-byte draw numbered k; it is under no law. -/
opaque Config.ivDraw : Nat → Block16

/-- R311: what a SRC cell holds after a host write that landed while a command was running. The spec gives the
result no meaning, so the byte is free (notes/assumptions/4.md). -/
opaque Config.hazardByte : Nat → Byte

/-- R9, R99: where the platform places the register space on its bus. No rule depends on it. -/
opaque Config.regBase : Nat
/-- R9, R99: where the platform places SRC on its bus. No rule depends on it. -/
opaque Config.srcBase : Nat
/-- R9, R99: where the platform places DST on its bus. No rule depends on it. -/
opaque Config.dstBase : Nat

end Sys2Proof
end

