-- ==== Sys2Proof/Machine/State.lean ====
section
/-! DEFINITION. The state of the block and of the model around it: registers, sequencer, buffers, fault record and
the inputs that are still to come (10_state.md, 20_memory.md R80, 70_reset_and_hazards.md). Plain data throughout. -/

namespace Sys2Proof.Machine

/-- The sequencer SEQ (R31, R59). -/
inductive Seq where
  | idle
  | busy
  deriving DecidableEq, Repr

/-- The registers of R32 that hold a value. GEOMETRY and CRYPTO_GEOMETRY are constants (R33, R34) and stand in
`Regs.get`. All are 32 bits wide (R10). -/
structure Regs where
  /-- R35: the last word accepted by an issue. -/
  cmd : Word
  /-- R36: BUSY, DONE, ERROR, INTEGRITY_OK, ERR_CODE and reserved bits. -/
  status : Word
  /-- R43. -/
  protocolVersion : Word
  /-- R44. -/
  productId : Word
  /-- R45. -/
  appVersion : Word
  /-- R46. -/
  pageCount : Word
  /-- R47. -/
  crcComputed : Word
  /-- R48. -/
  crcStored : Word
  /-- R49. -/
  srcLen : Word
  /-- R50. -/
  outLen : Word
  /-- R51. -/
  ctLen : Word
  /-- R52. -/
  keyLen : Word
  /-- R53: key bytes 0 to 3. -/
  key0 : Word
  /-- R53: key bytes 4 to 7. -/
  key1 : Word
  /-- R53: key bytes 8 to 11. -/
  key2 : Word
  /-- R53: key bytes 12 to 15. -/
  key3 : Word
  /-- R54: IV bytes 0 to 3. -/
  iv0 : Word
  /-- R54: IV bytes 4 to 7. -/
  iv1 : Word
  /-- R54: IV bytes 8 to 11. -/
  iv2 : Word
  /-- R54: IV bytes 12 to 15. -/
  iv3 : Word
  deriving DecidableEq, Repr

/-- R62: every register after a hardware reset. -/
def Regs.reset : Regs where
  cmd := 0
  status := 0
  protocolVersion := 1
  productId := 0
  appVersion := 0
  pageCount := 0
  crcComputed := 0
  crcStored := 0
  srcLen := 0
  outLen := 0
  ctLen := 0
  keyLen := 0
  key0 := 0
  key1 := 0
  key2 := 0
  key3 := 0
  iv0 := 0
  iv1 := 0
  iv2 := 0
  iv3 := 0

/-- A byte buffer of `cap` cells, offsets 0..cap−1 (R57, R58). `cells` lists the cells that hold a value, addresses
strictly rising; an unlisted cell holds no value. `cap` is a device parameter (R9): no step changes it. -/
structure Memory where
  cap   : Nat
  cells : List Host.Cell
  deriving DecidableEq, Repr

/-- What an unlisted cell reads as: no value (R301, R304). -/
def Memory.unlisted : Option Byte := none

/-- The canonical form: addresses strictly rising, every listed address an offset of the buffer, and a capacity
R9 allows. No listed entry can equal what an unlisted cell reads as, because that is no value at all. -/
abbrev Memory.wf (m : Memory) : Prop :=
  m.cells.Pairwise (fun c d => c.1 < d.1) ∧ (∀ c ∈ m.cells, c.1 < m.cap) ∧ m.cap < 2 ^ 32

/-- The fault set FAULTS (R60), as its two possible members. -/
structure Faults where
  /-- R304. -/
  unwrittenRead : Bool
  /-- R311. -/
  srcWriteWhileBusy : Bool
  deriving DecidableEq, Repr

/-- R60: FAULTS is empty at launch. -/
def Faults.empty : Faults := ⟨false, false⟩

/-- R140: the three address spaces a host transaction can name. -/
inductive Space where
  | reg
  | src
  | dst
  deriving DecidableEq, Repr

/-- R140: the direction of a host transaction. -/
inductive Dir where
  | write
  | read
  deriving DecidableEq, Repr

/-- R140: a host transaction. A width that no rule accepts is a bus error (R85), so `width` is any number. In a read
`data` is not used: the value returned stands in `State.response`. -/
structure Transaction where
  dir    : Dir
  space  : Space
  offset : Word
  width  : Nat
  data   : Word
  deriving DecidableEq, Repr

/-- What the host port answers to one access (R82 to R85): the data of a read, and the error indication. -/
structure Response where
  data  : Option Word
  error : Bool
  deriving DecidableEq, Repr

/-- What happens next (R7, R92, R142, R300): a host access, a POLL of the host, a turn of the ENGINE, or the reset
input. The list of them in `State.inputs` is one interleaving of the agents; the spec allows every interleaving, so a
claim is made for every list. -/
inductive Input where
  | access (t : Transaction)
  /-- R142: the host reads STATUS again and again until BUSY reads 0. `n` is the interleaving inside the loop: so many
  reads come before the one that the ENGINE's turn follows (notes/assumptions/16.md). -/
  | poll (n : Nat)
  | engine
  | reset
  deriving DecidableEq, Repr

/-- The whole state. -/
structure State where
  /-- R32: the register file. -/
  regs : Regs
  /-- R31, R59: the sequencer. -/
  seq : Seq
  /-- R57: the input buffer. -/
  src : Memory
  /-- R58: the output buffer. -/
  dst : Memory
  /-- R60: the fault set FAULTS. -/
  faults : Faults
  /-- R304, R311: a fault stopped the HOST, which takes no further step. -/
  hostStopped : Bool
  /-- R304: a fault stopped the ENGINE, which takes no further step. -/
  engineStopped : Bool
  /-- The model's own: the inputs still to come, next one first. -/
  inputs : List Input
  /-- R85, R140: what the host port answered to the last host access; none before the first one and after an
  access that returned nothing (R304, R311). -/
  response : Option Response
  /-- The model's own: how many free values the run has taken (R186, R311). -/
  freeIdx : Nat
  deriving DecidableEq, Repr

/-- Why a step has no next state. Neither is hardware behaviour: R304 and R311 say that an agent a model fault has
stopped takes no further step. -/
inductive Fault where
  /-- The next input is a host access or a POLL and the HOST has been stopped by a fault recorded in FAULTS (R304,
  R311). Raised by `hostTurn` and `pollTurn`. Safe: nothing is claimed about the run from there on. -/
  | hostStopped
  /-- The ENGINE is due, a command is running, and the ENGINE has been stopped by a fault recorded in FAULTS (R304).
  Raised by `engineTurn`. Safe: nothing is claimed about the run from there on. -/
  | engineStopped
  deriving DecidableEq, Repr

/-- Why an instruction has no meaning. -/
inductive Refusal where
  /-- Reserved for an arm of `exec` that has no meaning yet. Raised nowhere: every arm has its meaning. Safe. -/
  | notModelled (mnemonic : String)
  deriving DecidableEq, Repr

/-- R62 at launch: every register at its reset value, SEQ = IDLE, no buffer cell holding a value, FAULTS empty. The
capacities are the device's (R9). No input is given: what the HOST does comes from outside
(notes/assumptions/9.md). -/
def State.reset : State where
  regs := Regs.reset
  seq := .idle
  src := ⟨Config.srcCap.val, []⟩
  dst := ⟨Config.dstCap.val, []⟩
  faults := Faults.empty
  hostStopped := false
  engineStopped := false
  inputs := []
  response := none
  freeIdx := 0

end Sys2Proof.Machine
end

