-- ==== Sys2Proof/Machine/Flags.lean ====
section
/-! DEFINITION. The fields of STATUS and the error codes (10_state.md R36 to R42, 60_exceptions.md R270). -/

namespace Sys2Proof.Machine

/-- R270: the errors a command can raise. -/
inductive CmdError where
  /-- R271. -/
  | invalidKeyLength
  /-- R272. -/
  | inputReadError
  /-- R273. -/
  | outputWriteError
  /-- R274. -/
  | invalidHeader
  /-- R275. -/
  | truncatedContainer
  /-- R276. -/
  | illegalCommand
  deriving DecidableEq, Repr

/-- R270: the number of each error in STATUS.ERR_CODE. -/
def CmdError.code : CmdError → BitVec 4
  | .invalidKeyLength   => 1#4
  | .inputReadError     => 2#4
  | .outputWriteError   => 3#4
  | .invalidHeader      => 4#4
  | .truncatedContainer => 5#4
  | .illegalCommand     => 6#4

/-- R36: STATUS[0]. -/
def statusBusy (st : Word) : Bool := st.getLsbD 0
/-- R36: STATUS[1]. -/
def statusDone (st : Word) : Bool := st.getLsbD 1
/-- R36: STATUS[2]. -/
def statusError (st : Word) : Bool := st.getLsbD 2
/-- R36: STATUS[3]. -/
def statusIntegrityOk (st : Word) : Bool := st.getLsbD 3
/-- R36: STATUS[11:8]. -/
def statusErrCode (st : Word) : BitVec 4 := st.extractLsb' 8 4

/-- R36, R42: the reserved bits [7:4] and [31:12]. -/
def statusReservedMask : Word := 0xFFFFF0F0#32

/-- R36: the word whose fields are these and whose reserved bits are 0. -/
def packStatus (busy done error iok : Bool) (code : BitVec 4) : Word :=
  (BitVec.ofBool busy).setWidth 32
    ||| ((BitVec.ofBool done).setWidth 32 <<< 1)
    ||| ((BitVec.ofBool error).setWidth 32 <<< 2)
    ||| ((BitVec.ofBool iok).setWidth 32 <<< 3)
    ||| (code.setWidth 32 <<< 8)

/-- Writing every field of STATUS. Nothing writes the reserved bits (R42). -/
def writeStatus (old : Word) (busy done error iok : Bool) (code : BitVec 4) : Word :=
  (old &&& statusReservedMask) ||| packStatus busy done error iok code

/-- R250: STATUS at an issue. -/
def issueStatus (old : Word) : Word := writeStatus old true false false false 0#4

/-- R254: STATUS after `complete_ok(iok)`. -/
def okStatus (old : Word) (iok : Bool) : Word := writeStatus old false true false iok 0#4

/-- R280: STATUS after an error completion. -/
def errorStatus (old : Word) (e : CmdError) : Word := writeStatus old false true true false e.code

end Sys2Proof.Machine
end

