-- ==== Sys2Proof/Machine/Ops.lean ====
section
/-! DEFINITION. The named operations every command uses: byte sequences (00_scope.md R13), buffer reads and writes
(R14, R15, R57, R58), the completions (45_control.md R254, R255), the error completion, which is the block's trap
(60_exceptions.md R280 to R282), the recording of a model fault (70_reset_and_hazards.md R304) and reset (R300).
The block has no trap return: the next issue clears the error (R282), so `issue` stands beside `errorCompletion`. -/

namespace Sys2Proof.Machine

/-! ### Byte sequences (R13) -/

/-- R13: `zeros(n)`. -/
def zeros (n : Nat) : Bytes := List.replicate n 0#8

/-- R13: `le32(v)`. -/
def le32 (v : Word) : Bytes :=
  [v.extractLsb' 0 8, v.extractLsb' 8 8, v.extractLsb' 16 8, v.extractLsb' 24 8]

/-- R13: `b[i]`. Every use is below `len(b)`; the 0 above it is never read. -/
def byteAt (b : Bytes) (i : Nat) : Byte := b.getD i 0#8

/-- R13: `rdle32(b, o)`. -/
def rdle32 (b : Bytes) (o : Nat) : Word :=
  (byteAt b o).setWidth 32
    ||| ((byteAt b (o + 1)).setWidth 32 <<< 8)
    ||| ((byteAt b (o + 2)).setWidth 32 <<< 16)
    ||| ((byteAt b (o + 3)).setWidth 32 <<< 24)

/-! ### Buffers (R57, R58) -/

/-- What a buffer cell holds: a byte or no value. -/
def Memory.get (m : Memory) (a : Nat) : Option Byte :=
  match m.cells.find? (fun c => c.1 == a) with
  | some c => some c.2
  | none   => Memory.unlisted

/-- The cells a, a+1, … holding the bytes of `b`. -/
def cellsFrom (a : Nat) : Bytes → List Host.Cell
  | []      => []
  | b :: bs => (a, b) :: cellsFrom (a + 1) bs

/-- R14: `MemWrite`: the bytes of `b` at a, a+1, …; every other cell is as before. -/
def Memory.write (m : Memory) (a : Nat) (b : Bytes) : Memory :=
  { m with cells :=
      m.cells.filter (fun c => decide (c.1 < a)) ++ cellsFrom a b
        ++ m.cells.filter (fun c => decide (a + b.length ≤ c.1)) }

/-- R14, R15: `MemRead` of n bytes at a; none when one of the n cells holds no value. -/
def Memory.read (m : Memory) : (a n : Nat) → Option Bytes
  | _, 0     => some []
  | a, n + 1 =>
    match m.get a, m.read (a + 1) n with
    | some b, some bs => some (b :: bs)
    | _, _            => none

/-- R301: after a reset step no cell holds a value; the buffer keeps its capacity. -/
def Memory.cleared (m : Memory) : Memory := { m with cells := [] }

/-- R14: `DstStore(b)`, always from offset 0. -/
def dstStore (b : Bytes) (s : State) : State := { s with dst := s.dst.write 0 b }

/-! ### Issue and completions -/

/-- R250: the issue of a word. R282: it is also what clears the last command's error. -/
def issue (w : Word) (s : State) : State :=
  { s with
    regs := { s.regs with cmd := w, status := issueStatus s.regs.status }
    seq := .busy }

/-- R254: `complete_ok(iok)`. -/
def completeOk (iok : Bool) (s : State) : State :=
  { s with
    regs := { s.regs with status := okStatus s.regs.status iok }
    seq := .idle }

/-- R255: `wipe_key()`, on the registers. -/
def Regs.wipeKey (r : Regs) : Regs :=
  { r with key0 := 0, key1 := 0, key2 := 0, key3 := 0, keyLen := 0 }

/-- R255: `wipe_key()`. -/
def wipeKey (s : State) : State := { s with regs := s.regs.wipeKey }

/-- R280: whether the word in CMD is a CREATE or a RECOVER. -/
def usesKey (w : Word) : Bool :=
  match decode w with
  | .ok .create  => true
  | .ok .recover => true
  | .ok .nop     => false
  | .ok .pad     => false
  | .ok .crc32   => false
  | .error _     => false

/-- R280: OUT_LEN and CT_LEN become 0, and the key is wiped if the command in CMD uses one. -/
def errorClear (s : State) : State :=
  let s := { s with regs := { s.regs with outLen := 0, ctLen := 0 } }
  if usesKey s.regs.cmd then wipeKey s else s

/-- R280, R281: the error completion, `raise CmdError(e)`. It saves nothing and transfers control nowhere. -/
def errorCompletion (e : CmdError) (s : State) : State :=
  let s := errorClear s
  { s with
    regs := { s.regs with status := errorStatus s.regs.status e }
    seq := .idle }

/-! ### Model faults and free values -/

/-- R304: an UnwrittenRead by the ENGINE. The completion does not happen, SEQ stays as it is, and the ENGINE takes
no further step. -/
def engineUnwrittenRead (s : State) : State :=
  { s with faults := { s.faults with unwrittenRead := true }, engineStopped := true }

/-- R304: an UnwrittenRead by the HOST. The read returns no value and the HOST takes no further step. -/
def hostUnwrittenRead (s : State) : State :=
  { s with
    faults := { s.faults with unwrittenRead := true }
    hostStopped := true
    response := none }

/-- Taking n free values (R186, R311). -/
def takeFree (n : Nat) (s : State) : State := { s with freeIdx := s.freeIdx + n }

/-! ### Reset -/

/-- R300 to R303: a reset step. The registers and SEQ take their reset values and no buffer cell holds a value.
FAULTS stays. What is no part of the block stays too: the stopped agents, the inputs still to come, the last
answer of the host port and the random source (notes/assumptions/3.md, 6.md). -/
def resetStep (s : State) : State :=
  { s with
    regs := Regs.reset
    seq := .idle
    src := s.src.cleared
    dst := s.dst.cleared }

end Sys2Proof.Machine
end

