-- ==== Sys2Proof/Machine/Operands.lean ====
section
/-! DEFINITION. The operands of the commands: no command carries one in its word, each is a register or a buffer
range read at the completion step (30_encoding.md R112; 10_state.md R53, R54). -/

namespace Sys2Proof.Machine

/-- R53, R112: the key bytes of KEY0 to KEY3. -/
def keyBytes (r : Regs) : Block16 :=
  ⟨(le32 r.key0 ++ le32 r.key1 ++ le32 r.key2 ++ le32 r.key3).toArray, rfl⟩

/-- R49: SRC_LEN as a length. -/
def srcLength (s : State) : Nat := s.regs.srcLen.toNat

/-- R52, R271: the key check of CREATE and RECOVER. -/
def keyLenOk (r : Regs) : Bool := decide (r.keyLen = BitVec.ofNat 32 keyLenConst)

/-- R14: `SrcBytes(n)`. -/
def srcBytes (n : Nat) (s : State) : Option Bytes := s.src.read 0 n

/-- R54: IV0 to IV3 take the 16 bytes of an IV. -/
def Regs.setIv (r : Regs) (iv : Block16) : Regs :=
  { r with
    iv0 := rdle32 iv.toList 0
    iv1 := rdle32 iv.toList 4
    iv2 := rdle32 iv.toList 8
    iv3 := rdle32 iv.toList 12 }

/-- R12: a length or a page count written to a 32-bit register. -/
def toWord (n : Nat) : Word := BitVec.ofNat 32 n

end Sys2Proof.Machine
end

