-- ==== Sys2Proof/Machine/Control.lean ====
section
/-! DEFINITION. NOP and the completion of an illegal word (45_control.md R252, R253). -/

namespace Sys2Proof.Machine

/-- NOP (R252): complete without effect. -/
def execNop (s : State) : Host.Outcome State Fault Refusal := .next (completeOk false s)

/-- R253: the completion of a word that decodes to ILLEGAL. -/
def illegalCompletion (s : State) : State := errorCompletion .illegalCommand s

end Sys2Proof.Machine
end

