-- ==== Sys2Proof/Machine/Cipher.lean ====
section
/-! DEFINITION. The cipher port (42_cipher_port.md R180 to R185): Encrypt and Decrypt over a cipher of Config.lean. -/

namespace Sys2Proof.Machine

/-- R180, R182: `Encrypt(key, iv, p)`. -/
def encryptWith (e : Cipher) (key iv : Block16) (p : Bytes) : Bytes :=
  (e.perm key iv p.length ⟨p, rfl⟩).val

/-- R180, R182: `Decrypt(key, iv, c)`. -/
def decryptWith (e : Cipher) (key iv : Block16) (c : Bytes) : Bytes :=
  ((e.perm key iv c.length).symm ⟨c, rfl⟩).val

/-- R182: the cipher of a pair of functions with C-LEN and C-INV, given both ways round (the second by R183). -/
def cipherOf (enc dec : Block16 → Block16 → Bytes → Bytes)
    (hel : ∀ k iv p, (enc k iv p).length = p.length) (hdl : ∀ k iv c, (dec k iv c).length = c.length)
    (hde : ∀ k iv p, dec k iv (enc k iv p) = p) (hed : ∀ k iv c, enc k iv (dec k iv c) = c) : Cipher where
  perm k iv _ :=
    { toFun := fun p => ⟨enc k iv p.val, by rw [hel, p.property]⟩
      invFun := fun c => ⟨dec k iv c.val, by rw [hdl, c.property]⟩
      left_inv := fun p => Subtype.ext (hde k iv p.val)
      right_inv := fun c => Subtype.ext (hed k iv c.val) }

end Sys2Proof.Machine
end

