-- ==== Sys2Proof/Machine/Crc.lean ====
section
/-! DEFINITION. The CRC32 generator and the CRC32 command (41_crc32.md). -/

namespace Sys2Proof.Machine

/-- R166: the generator polynomial, bit-reversed form. -/
def crcPoly : Word := 0xEDB88320#32

/-- R167: one pass of the inner loop. -/
def crcBit (c : Word) : Word :=
  if c.getLsbD 0 then (c >>> 1) ^^^ crcPoly else c >>> 1

/-- R167: n passes of the inner loop. -/
def crcBits : Nat → Word → Word
  | 0, c     => c
  | n + 1, c => crcBits n (crcBit c)

/-- R167: one byte of the input. -/
def crcByte (c : Word) (b : Byte) : Word := crcBits 8 (c ^^^ b.setWidth 32)

/-- R167: `crc32(b)`, the bit-serial form (the normative one). -/
def crc32 (b : Bytes) : Word := b.foldl crcByte 0xFFFFFFFF#32 ^^^ 0xFFFFFFFF#32

/-- R168: the table entry T[i]. -/
def crcTable (i : Byte) : Word := crcBits 8 (i.setWidth 32)

/-- R168: one byte of the table-driven form. -/
def crcTableByte (c : Word) (b : Byte) : Word :=
  crcTable ((c ^^^ b.setWidth 32).extractLsb' 0 8) ^^^ (c >>> 8)

/-- R168: the table-driven form. -/
def crc32Table (b : Bytes) : Word := b.foldl crcTableByte 0xFFFFFFFF#32 ^^^ 0xFFFFFFFF#32

/-- R170 after its check, with the SRC bytes read. -/
def crc32Success (q : Bytes) (s : State) : State :=
  completeOk false { s with
    regs := { s.regs with crcComputed := crc32 q, outLen := 0, ctLen := 0 } }

/-- R170: the completion of CRC32. -/
def crc32Completion (s : State) : State :=
  let n := srcLength s
  if s.src.cap < n then errorCompletion .inputReadError s
  else match srcBytes n s with
    | none   => engineUnwrittenRead s
    | some q => crc32Success q s

/-- CRC32 (R170). -/
def execCrc32 (s : State) : Host.Outcome State Fault Refusal := .next (crc32Completion s)

end Sys2Proof.Machine
end

