-- ==== Sys2Proof/Machine/Frame.lean ====
section
/-! DEFINITION. The container frame: header packer and parser (30_encoding.md R130 to R135). -/

namespace Sys2Proof.Machine

/-- The header fields of R130, in the order of their offsets. -/
structure Header where
  protocolVersion : Word
  productId       : Word
  appVersion      : Word
  pageCount       : Word
  iv              : Block16
  crc             : Word
  deriving DecidableEq, Repr

/-- R132: `packHeader`. -/
def packHeader (h : Header) : Bytes :=
  le32 h.protocolVersion ++ le32 h.productId ++ le32 h.appVersion ++ le32 h.pageCount
    ++ h.iv.toList ++ le32 h.crc

/-- R133: `b[o:o+16)`. -/
def block16At (b : Bytes) (o : Nat) : Block16 := Vector.ofFn fun i => byteAt b (o + i.val)

/-- R133: `parseHeader`, for byte sequences of 36 bytes or more. No field value is rejected. -/
def parseHeader (b : Bytes) : Header where
  protocolVersion := rdle32 b 0
  productId := rdle32 b 4
  appVersion := rdle32 b 8
  pageCount := rdle32 b 12
  iv := block16At b 16
  crc := rdle32 b 32

end Sys2Proof.Machine
end

