-- ==== Sys2Proof/Machine/Padding.lean ====
section
/-! DEFINITION. The padding-boundary enforcer and the PAD command (40_padding.md). -/

namespace Sys2Proof.Machine

/-- R150: `padLen(n)`. -/
def padLen (n : Nat) : Nat :=
  if n % pageSize = 0 then n else n + (pageSize - n % pageSize)

/-- R150: `pad(b)`. -/
def padBytes (b : Bytes) : Bytes :=
  if b.length % pageSize = 0 then b else b ++ zeros (pageSize - b.length % pageSize)

/-- R154: `pages(n)`. -/
def pages (n : Nat) : Nat := padLen n / pageSize

/-- R156 after its checks, with the SRC bytes read. -/
def padSuccess (q : Bytes) (s : State) : State :=
  let m := padLen q.length
  let s := dstStore (padBytes q) s
  completeOk false { s with
    regs := { s.regs with outLen := toWord m, pageCount := toWord (m / pageSize), ctLen := 0 } }

/-- R156: the completion of PAD. -/
def padCompletion (s : State) : State :=
  let n := srcLength s
  if s.src.cap < n then errorCompletion .inputReadError s
  else if s.dst.cap < padLen n then errorCompletion .outputWriteError s
  else match srcBytes n s with
    | none   => engineUnwrittenRead s
    | some q => padSuccess q s

/-- PAD (R156). -/
def execPad (s : State) : Host.Outcome State Fault Refusal := .next (padCompletion s)

end Sys2Proof.Machine
end

