-- ==== Sys2Proof/Machine/Create.lean ====
section
/-! DEFINITION. The frame encoder: CREATE (43_create.md). -/

namespace Sys2Proof.Machine

/-- R132, R200: the header CREATE packs for a padded plaintext `p`. -/
def createHeader (r : Regs) (iv : Block16) (p : Bytes) : Header where
  protocolVersion := r.protocolVersion
  productId := r.productId
  appVersion := r.appVersion
  pageCount := toWord (p.length / pageSize)
  iv := iv
  crc := crc32 p

/-- R130, R202: the frame CREATE writes for a padded plaintext `p`. -/
def createFrame (e : Cipher) (r : Regs) (iv : Block16) (p : Bytes) : Bytes :=
  packHeader (createHeader r iv p) ++ encryptWith e (keyBytes r) iv p

/-- R200 after its checks, with the SRC bytes read: the registers CREATE writes. -/
def createRegs (r : Regs) (iv : Block16) (p : Bytes) : Regs :=
  { r.setIv iv with
    pageCount := toWord (p.length / pageSize)
    crcComputed := crc32 p
    crcStored := crc32 p
    outLen := toWord (headerLen + p.length)
    ctLen := toWord p.length }

/-- R200 after its checks, with the SRC bytes read and the draw taken. -/
def createSuccess (e : Cipher) (iv : Block16) (q : Bytes) (s : State) : State :=
  let p := padBytes q
  let t := takeFree 1 (dstStore (createFrame e s.regs iv p) s)
  completeOk false (wipeKey { t with regs := createRegs s.regs iv p })

/-- R200: the completion of CREATE under a cipher and with a draw at hand. R186: the draw is taken only when every
check has passed. -/
def createCompletion (e : Cipher) (iv : Block16) (s : State) : State :=
  let n := srcLength s
  if keyLenOk s.regs = false then errorCompletion .invalidKeyLength s
  else if s.src.cap < n then errorCompletion .inputReadError s
  else if s.dst.cap < headerLen + padLen n then errorCompletion .outputWriteError s
  else match srcBytes n s with
    | none   => engineUnwrittenRead s
    | some q => createSuccess e iv q s

/-- CREATE (R200). The cipher and the draw are the machine's open values (R182, R186). -/
def execCreate (s : State) : Host.Outcome State Fault Refusal :=
  .next (createCompletion Config.cipher (Config.ivDraw s.freeIdx) s)

end Sys2Proof.Machine
end

