-- ==== Sys2Proof/Machine/Recover.lean ====
section
/-! DEFINITION. The frame decoder: RECOVER (44_recover.md). -/

namespace Sys2Proof.Machine

/-- R231: `need`, an unbounded number. -/
def frameNeed (h : Header) : Nat := h.pageCount.toNat * pageSize

/-- R230 after its checks: the registers RECOVER writes. -/
def recoverRegs (r : Regs) (h : Header) (pt : Bytes) : Regs :=
  { r.setIv h.iv with
    protocolVersion := h.protocolVersion
    productId := h.productId
    appVersion := h.appVersion
    pageCount := h.pageCount
    crcStored := h.crc
    crcComputed := crc32 (padBytes pt)
    outLen := toWord (frameNeed h)
    ctLen := toWord (frameNeed h) }

/-- R230 after its checks, with header and ciphertext read. R235: the plaintext is stored whether or not the CRC
matches. -/
def recoverSuccess (e : Cipher) (h : Header) (ct : Bytes) (s : State) : State :=
  let pt := decryptWith e (keyBytes s.regs) h.iv ct
  let t := dstStore pt s
  completeOk (decide (crc32 (padBytes pt) = h.crc)) (wipeKey { t with regs := recoverRegs s.regs h pt })

/-- R230 from the parsed header on: the checks that need the page count, then the ciphertext. -/
def recoverBody (e : Cipher) (h : Header) (s : State) : State :=
  if srcLength s - headerLen < frameNeed h then errorCompletion .truncatedContainer s
  else if s.dst.cap < frameNeed h then errorCompletion .outputWriteError s
  else match s.src.read headerLen (frameNeed h) with
    | none    => engineUnwrittenRead s
    | some ct => recoverSuccess e h ct s

/-- R230: the completion of RECOVER under a cipher. -/
def recoverCompletion (e : Cipher) (s : State) : State :=
  let n := srcLength s
  if keyLenOk s.regs = false then errorCompletion .invalidKeyLength s
  else if s.src.cap < n then errorCompletion .inputReadError s
  else if n < headerLen then errorCompletion .invalidHeader s
  else match s.src.read 0 headerLen with
    | none   => engineUnwrittenRead s
    | some b => recoverBody e (parseHeader b) s

/-- RECOVER (R230). The cipher is the machine's open value (R182). -/
def execRecover (s : State) : Host.Outcome State Fault Refusal :=
  .next (recoverCompletion Config.cipher s)

end Sys2Proof.Machine
end

