-- ==== Sys2Proof/Machine/Dispatch.lean ====
section
/-! DEFINITION. One arm per command (45_control.md R251): its meaning, run at the completion step. -/

namespace Sys2Proof.Machine

def exec (i : Instr) (s : State) : Host.Outcome State Fault Refusal :=
  match i with
  | .nop => Sys2Proof.Machine.execNop s
  | .create => Sys2Proof.Machine.execCreate s
  | .recover => Sys2Proof.Machine.execRecover s
  | .pad => Sys2Proof.Machine.execPad s
  | .crc32 => Sys2Proof.Machine.execCrc32 s

end Sys2Proof.Machine
end

