-- ==== Sys2Proof/Machine/RegMap.lean ====
section
/-! DEFINITION. The register map: names, offsets, host access rights and values (10_state.md R32 to R56). -/

namespace Sys2Proof.Machine

/-- The registers of R32. -/
inductive RegName where
  | geometry | cryptoGeometry | cmd | status | protocolVersion | productId | appVersion | pageCount
  | crcComputed | crcStored | srcLen | outLen | ctLen | keyLen
  | key0 | key1 | key2 | key3 | iv0 | iv1 | iv2 | iv3
  deriving DecidableEq, Repr

/-- R32: RO, WO and RW. -/
inductive HostRights where
  | ro | wo | rw
  deriving DecidableEq, Repr

/-- R32: the offset column. -/
def RegName.offset : RegName → Word
  | .geometry => 0x00 | .cryptoGeometry => 0x04 | .cmd => 0x08 | .status => 0x0C
  | .protocolVersion => 0x10 | .productId => 0x14 | .appVersion => 0x18 | .pageCount => 0x1C
  | .crcComputed => 0x20 | .crcStored => 0x24 | .srcLen => 0x28 | .outLen => 0x2C
  | .ctLen => 0x30 | .keyLen => 0x34
  | .key0 => 0x40 | .key1 => 0x44 | .key2 => 0x48 | .key3 => 0x4C
  | .iv0 => 0x50 | .iv1 => 0x54 | .iv2 => 0x58 | .iv3 => 0x5C

/-- R32: the register at an offset; none at a reserved offset (R55). -/
def regAt (o : Nat) : Option RegName :=
  match o with
  | 0x00 => some .geometry | 0x04 => some .cryptoGeometry | 0x08 => some .cmd | 0x0C => some .status
  | 0x10 => some .protocolVersion | 0x14 => some .productId | 0x18 => some .appVersion
  | 0x1C => some .pageCount | 0x20 => some .crcComputed | 0x24 => some .crcStored
  | 0x28 => some .srcLen | 0x2C => some .outLen | 0x30 => some .ctLen | 0x34 => some .keyLen
  | 0x40 => some .key0 | 0x44 => some .key1 | 0x48 => some .key2 | 0x4C => some .key3
  | 0x50 => some .iv0 | 0x54 => some .iv1 | 0x58 => some .iv2 | 0x5C => some .iv3
  | _ => none

/-- R32: the host access column. A write of a KEY register stores (R32 "WO means a host read returns 0"). -/
def RegName.rights : RegName → HostRights
  | .geometry | .cryptoGeometry | .status | .pageCount | .crcComputed | .crcStored | .outLen | .ctLen
  | .iv0 | .iv1 | .iv2 | .iv3 => .ro
  | .key0 | .key1 | .key2 | .key3 => .wo
  | .cmd | .protocolVersion | .productId | .appVersion | .srcLen | .keyLen => .rw

/-- R33: GEOMETRY is always 0x00240400. -/
def geometryValue : Word := 0x00240400#32
/-- R34: CRYPTO_GEOMETRY is always 0x00001010. -/
def cryptoGeometryValue : Word := 0x00001010#32

/-- The value a register holds. The one place where the two constant registers get their value (R33, R34). -/
def Regs.get (r : Regs) : RegName → Word
  | .geometry => geometryValue | .cryptoGeometry => cryptoGeometryValue
  | .cmd => r.cmd | .status => r.status
  | .protocolVersion => r.protocolVersion | .productId => r.productId | .appVersion => r.appVersion
  | .pageCount => r.pageCount | .crcComputed => r.crcComputed | .crcStored => r.crcStored
  | .srcLen => r.srcLen | .outLen => r.outLen | .ctLen => r.ctLen | .keyLen => r.keyLen
  | .key0 => r.key0 | .key1 => r.key1 | .key2 => r.key2 | .key3 => r.key3
  | .iv0 => r.iv0 | .iv1 => r.iv1 | .iv2 => r.iv2 | .iv3 => r.iv3

/-- Storing a value in a register. The constant registers take no value (R33, R34). -/
def Regs.set (r : Regs) (n : RegName) (v : Word) : Regs :=
  match n with
  | .geometry | .cryptoGeometry => r
  | .cmd => { r with cmd := v } | .status => { r with status := v }
  | .protocolVersion => { r with protocolVersion := v } | .productId => { r with productId := v }
  | .appVersion => { r with appVersion := v } | .pageCount => { r with pageCount := v }
  | .crcComputed => { r with crcComputed := v } | .crcStored => { r with crcStored := v }
  | .srcLen => { r with srcLen := v } | .outLen => { r with outLen := v }
  | .ctLen => { r with ctLen := v } | .keyLen => { r with keyLen := v }
  | .key0 => { r with key0 := v } | .key1 => { r with key1 := v }
  | .key2 => { r with key2 := v } | .key3 => { r with key3 := v }
  | .iv0 => { r with iv0 := v } | .iv1 => { r with iv1 := v }
  | .iv2 => { r with iv2 := v } | .iv3 => { r with iv3 := v }

/-- R82, R53, R55, R56: what an aligned 4-byte host read of an offset of REG returns. -/
def Regs.hostRead (r : Regs) (o : Nat) : Word :=
  match regAt o with
  | none   => 0
  | some n => if n.rights = .wo then 0 else r.get n

end Sys2Proof.Machine
end

