-- ==== Sys2Proof/Machine/HostPort.lean ====
section
/-! DEFINITION. The host port: what one host access to REG, SRC or DST does and answers (20_memory.md R80 to R89;
70_reset_and_hazards.md R304, R310, R311). -/

namespace Sys2Proof.Machine

/-! ### Which accesses are accepted -/

/-- R80: the size of the REG space. -/
def regSpaceSize : Nat := 256

/-- R82: a REG access is 4 bytes wide, at an aligned offset of the 256-byte space. -/
def regAccessOk (t : Transaction) : Bool :=
  decide (t.width = 4 ∧ t.offset.toNat % 4 = 0 ∧ t.offset.toNat < regSpaceSize)

/-- R83, R84: a buffer access is 1 byte at a valid offset, or 4 bytes at an aligned offset with every byte valid. -/
def bufAccessOk (m : Memory) (t : Transaction) : Bool :=
  decide ((t.width = 1 ∧ t.offset.toNat < m.cap)
    ∨ (t.width = 4 ∧ t.offset.toNat % 4 = 0 ∧ t.offset.toNat + 3 < m.cap))

/-- R82 to R84: whether the block accepts the access; one it does not accept is a bus error (R85). -/
def accessOk (s : State) (t : Transaction) : Bool :=
  match t.space, t.dir with
  | .reg, _      => regAccessOk t
  | .src, _      => bufAccessOk s.src t
  | .dst, .read  => bufAccessOk s.dst t
  | .dst, .write => false

/-! ### Answers -/

/-- The answer to a read that returned `v`. -/
def answerData (v : Word) (s : State) : State := { s with response := some ⟨some v, false⟩ }

/-- The answer to a write the block took or ignored. -/
def answerDone (s : State) : State := { s with response := some ⟨none, false⟩ }

/-- R85: a bus error. A read returns data 0 together with the error indication. -/
def busError (t : Transaction) (s : State) : State :=
  match t.dir with
  | .read  => { s with response := some ⟨some 0, true⟩ }
  | .write => { s with response := some ⟨none, true⟩ }

/-! ### REG -/

/-- R82, R35, R55, R56, R310: an accepted host write of `v` to offset `o` of REG. -/
def regWrite (o : Nat) (v : Word) (s : State) : State :=
  match s.seq with
  | .busy => s
  | .idle =>
    match regAt o with
    | none      => s
    | some .cmd => issue v s
    | some n    => if n.rights = .ro then s else { s with regs := s.regs.set n v }

/-! ### SRC and DST -/

/-- R83, R87: the bus value of the bytes of a buffer read: little-endian, a single byte zero-extended. -/
def busValue (b : Bytes) : Word := rdle32 b 0

/-- R83, R87: the bytes a buffer write of the given width stores. -/
def busBytes (width : Nat) (v : Word) : Bytes := (le32 v).take width

/-- R83, R84, R304: an accepted host read of a buffer. -/
def bufRead (m : Memory) (t : Transaction) (s : State) : State :=
  match m.read t.offset.toNat t.width with
  | some b => answerData (busValue b) s
  | none   => hostUnwrittenRead s

/-- R311: the bytes a hazardous SRC write leaves: n free values from number i on. -/
def hazardBytes (i : Nat) : Nat → Bytes
  | 0     => []
  | n + 1 => Config.hazardByte i :: hazardBytes (i + 1) n

/-- R311: an accepted host write to SRC while a command runs. The fault is recorded, the HOST stops, and what the
written cells hold is free. -/
def srcWriteHazard (t : Transaction) (s : State) : State :=
  { takeFree t.width s with
    src := s.src.write t.offset.toNat (hazardBytes s.freeIdx t.width)
    faults := { s.faults with srcWriteWhileBusy := true }
    hostStopped := true
    response := none }

/-- R83: an accepted host write to SRC while no command runs. -/
def srcWrite (t : Transaction) (s : State) : State :=
  answerDone { s with src := s.src.write t.offset.toNat (busBytes t.width t.data) }

/-- R82 to R85: one host access. -/
def hostAccess (t : Transaction) (s : State) : State :=
  if accessOk s t = false then busError t s
  else match t.space, t.dir with
    | .reg, .read  => answerData (s.regs.hostRead t.offset.toNat) s
    | .reg, .write => answerDone (regWrite t.offset.toNat t.data s)
    | .src, .read  => bufRead s.src t s
    | .src, .write => match s.seq with
      | .busy => srcWriteHazard t s
      | .idle => srcWrite t s
    | .dst, _      => bufRead s.dst t s

/-- R304, R311: the HOST makes its next access, unless a fault has stopped it. -/
def hostTurn (t : Transaction) (s : State) : Host.Outcome State Fault Refusal :=
  if s.hostStopped then .fault .hostStopped else .next (hostAccess t s)

/-- R80, R99: the bus address of an offset of a space. -/
def busAddress (sp : Space) (o : Word) : Nat :=
  match sp with
  | .reg => Config.regBase + o.toNat
  | .src => Config.srcBase + o.toNat
  | .dst => Config.dstBase + o.toNat

end Sys2Proof.Machine
end

