-- ==== Sys2Proof/Machine/HostScript.lean ====
section
/-! DEFINITION. The host-script notation: the transactions of each host instruction and pseudo-instruction
(30_encoding.md R140 to R142), and the loop of POLL. The host's other control flow (counters, branches) is not seen by
the block: a script is the list of transactions and POLLs the host ends up making. -/

namespace Sys2Proof.Machine

/-- R140: dir ∈ {W, R}, space ∈ {REG, SRC, DST}, 32-bit offset and width ∈ {1, 4}. -/
def Transaction.wellFormed (t : Transaction) : Bool := decide (t.width = 1 ∨ t.width = 4)

/-- R141: `WR <reg>, <v>`. -/
def hostWR (r : RegName) (v : Word) : Transaction := ⟨.write, .reg, r.offset, 4, v⟩
/-- R141: `RD <reg>`. -/
def hostRD (r : RegName) : Transaction := ⟨.read, .reg, r.offset, 4, 0⟩
/-- R141: `SB <off>, <b>`. -/
def hostSB (off : Word) (b : Byte) : Transaction := ⟨.write, .src, off, 1, b.setWidth 32⟩
/-- R141: `SW <off>, <v>`. -/
def hostSW (off v : Word) : Transaction := ⟨.write, .src, off, 4, v⟩
/-- R141: `LB <space>, <off>`. -/
def hostLB (sp : Space) (off : Word) : Transaction := ⟨.read, sp, off, 1, 0⟩
/-- R141: `LW <space>, <off>`. -/
def hostLW (sp : Space) (off : Word) : Transaction := ⟨.read, sp, off, 4, 0⟩

/-- R142: `POLL`. After `n` further reads of a BUSY that is still 1 the ENGINE's turn comes. -/
def hostPOLL (n : Nat) : List Input := [.poll n]

/-- R142: `RUN <op>`: the issue and a POLL. -/
def hostRUN (i : Instr) (n : Nat) : List Input := .access (hostWR .cmd (encode i)) :: hostPOLL n

/-- R142: `LDKEY k0 … k15`. -/
def hostLDKEY (k : Block16) : List Transaction :=
  [hostWR .key0 (rdle32 k.toList 0), hostWR .key1 (rdle32 k.toList 4),
   hostWR .key2 (rdle32 k.toList 8), hostWR .key3 (rdle32 k.toList 12),
   hostWR .keyLen (BitVec.ofNat 32 keyLenConst)]

/-- The byte writes `SB <off>+i, b[i]`, in increasing order. DESIGN CHOICE (notes/assumptions/15.md): an offset is 32
bits wide (R140), so `<off>+i` beyond 2^32 − 1 wraps to 0; the spec gives such a script no meaning. Unsafe there. -/
def hostStoreBytes (off : Word) : Bytes → List Transaction
  | []      => []
  | b :: bs => hostSB off b :: hostStoreBytes (off + 1) bs

/-- R142: `LDSRC <off>, b0 … bn−1`. DESIGN CHOICE (notes/assumptions/15.md): the offsets, and the value `<off>+n`
written to SRC_LEN, wrap beyond 2^32 − 1, where the spec gives the script no meaning. Unsafe there. -/
def hostLDSRC (off : Word) (b : Bytes) : List Transaction :=
  hostStoreBytes off b ++ [hostWR .srcLen (off + toWord b.length)]

/-- R142: `FILL <off>, <n>, <b>`. DESIGN CHOICE (notes/assumptions/15.md): the offsets wrap beyond 2^32 − 1, where the
spec gives the script no meaning. Unsafe there. -/
def hostFILL (off : Word) (n : Nat) (b : Byte) : List Transaction :=
  hostStoreBytes off (List.replicate n b)

/-- A script without a POLL, as inputs of the machine. -/
def script (ts : List Transaction) : List Input := ts.map Input.access

/-! ### The loop of POLL -/

/-- R142: the test `result[0] = 1` of POLL, on the answer of the host port. -/
def pollTest (r : Option Response) : Bool :=
  match r with
  | some ⟨some v, _⟩ => statusBusy v
  | some ⟨none, _⟩   => false
  | none             => false

/-- What comes next where POLL goes back to its read: the loop, and after the last read of its `n` the ENGINE's turn
before it. -/
def pollLoop : Nat → List Input
  | 0     => [.engine, .poll 0]
  | n + 1 => [.poll n]

/-- R142: one pass of POLL: `RD STATUS`, then back if result[0] = 1. -/
def pollAccess (n : Nat) (s : State) : State :=
  let t := hostAccess (hostRD .status) s
  if pollTest t.response then { t with inputs := pollLoop n ++ t.inputs } else t

/-- R142, R304, R311: the HOST makes a pass of POLL, unless a fault has stopped it. -/
def pollTurn (n : Nat) (s : State) : Host.Outcome State Fault Refusal :=
  if s.hostStopped then .fault .hostStopped else .next (pollAccess n s)

end Sys2Proof.Machine
end

