-- ==== Sys2Proof/Machine/Engine.lean ====
section
/-! DEFINITION. The ENGINE's turn: the completion of the command in CMD (45_control.md R251). -/

namespace Sys2Proof.Machine

/-- R251: the completion: decode CMD and run the command's rule. -/
def complete (s : State) : Host.Outcome State Fault Refusal :=
  match decode s.regs.cmd with
  | .ok i    => exec i s
  | .error _ => .next (illegalCompletion s)

/-- R251: the ENGINE has a step exactly while SEQ = BUSY; R304: none once a fault has stopped it. While SEQ = IDLE
its turn passes with no effect. -/
def engineTurn (s : State) : Host.Outcome State Fault Refusal :=
  match s.seq with
  | .idle => .next s
  | .busy => if s.engineStopped then .fault .engineStopped else complete s

/-- The step the next input asks for, `s` being the state with that input already taken off. -/
def inputTurn (i : Input) (s : State) : Host.Outcome State Fault Refusal :=
  match i with
  | .access t => hostTurn t s
  | .poll n   => pollTurn n s
  | .engine   => engineTurn s
  | .reset    => .next (resetStep s)

/-- The command word `w` issued (R250) and the ENGINE due next, with no fault having stopped it. -/
def issued (w : Word) (s : State) : State :=
  { issue w s with engineStopped := false, inputs := .engine :: s.inputs }

end Sys2Proof.Machine
end

