-- ==== Sys2Proof/Machine/Step.lean ====
section
/-! DEFINITION. One step of the machine (20_memory.md R92): the agent that is due moves. -/

namespace Sys2Proof.Machine

/-- One step: the next input, or, when no input is left, a turn of the ENGINE (the weak fairness of R251: a running
command completes). With no input left and SEQ = IDLE nothing is enabled and the state stays as it is. -/
def step (s : State) : Host.Outcome State Fault Refusal :=
  match s.inputs with
  | []        => engineTurn s
  | i :: rest => inputTurn i { s with inputs := rest }

/-- The block fetches no instruction (R31): a command is the word of an issue, held in CMD (R35), and it runs at the
next completion. This is the state with that word issued and the completion due next. -/
def State.withFetchWord (s : State) (nbits w : Nat) : State := issued (BitVec.ofNat 32 (w % 2 ^ nbits)) s

end Sys2Proof.Machine
end

