-- ==== Sys2Proof/Safety.lean ====
section
/-! DEFINITION. What the claims call a fault-free, a final and a consistent state (10_state.md R60;
70_reset_and_hazards.md R306; 10_state.md R37 to R42). -/

namespace Sys2Proof.Machine

/-- n steps, stopping at the first fault. -/
def steps : Nat → State → Host.Outcome State Fault Refusal
  | 0, s     => .next s
  | n + 1, s =>
    match step s with
    | .next t    => steps n t
    | .fault r   => .fault r
    | .refused r => .refused r

/-- R60: FAULTS = ∅, the premise of every claim about a run. -/
abbrev State.faultFree (s : State) : Prop := s.faults = Faults.empty

/-- R306: the host program has no transaction left. -/
def State.hostDone (s : State) : Bool :=
  s.inputs.all fun i => match i with
    | .access _ => false
    | .poll _   => false
    | .engine   => true
    | .reset    => true

/-- R306: a final state: no transaction left, SEQ = IDLE, FAULTS = ∅. -/
abbrev State.final (s : State) : Prop := s.hostDone = true ∧ s.seq = .idle ∧ s.faultFree

/-- R306: the final observation: the register file and every buffer cell that holds a value. -/
def State.observation (s : State) : Regs × List Host.Cell × List Host.Cell :=
  (s.regs, s.src.cells, s.dst.cells)

/-- R251: a command is running, no fault has stopped the ENGINE, and the ENGINE moves next: its turn is the next
input, or no input is left. `rest` are the inputs after its turn. -/
def State.engineDue (s : State) (rest : List Input) : Prop :=
  s.seq = .busy ∧ s.engineStopped = false ∧ (s.inputs = .engine :: rest ∨ (s.inputs = [] ∧ rest = []))

/-- The next input is this host access, and no fault has stopped the HOST. `rest` are the inputs after it. -/
def State.hostDue (s : State) (t : Transaction) (rest : List Input) : Prop :=
  s.hostStopped = false ∧ s.inputs = .access t :: rest

/-- The six fields of STATUS in `new`, the reserved bits being those of `old` (R36, R42). -/
def StatusIs (old new : Word) (busy done error iok : Bool) (code : BitVec 4) : Prop :=
  statusBusy new = busy ∧ statusDone new = done ∧ statusError new = error ∧ statusIntegrityOk new = iok
    ∧ statusErrCode new = code ∧ new &&& statusReservedMask = old &&& statusReservedMask

/-- What no completion changes: SRC, the capacity of DST, FAULTS, the stopped agents, the inputs to come, the answer of
the host port. -/
def SameOutside (s t : State) : Prop :=
  t.src = s.src ∧ t.dst.cap = s.dst.cap ∧ t.faults = s.faults ∧ t.hostStopped = s.hostStopped
    ∧ t.engineStopped = s.engineStopped ∧ t.inputs = s.inputs ∧ t.response = s.response

/-- R280: `t` is the error completion of code `code` from `s`, with the key wiped or not: OUT_LEN and CT_LEN are 0,
STATUS reports the error, every other register keeps its value, and DST, SRC and the random source are untouched. -/
def ErrorsWith (code : BitVec 4) (wiped : Bool) (s t : State) : Prop :=
  StatusIs s.regs.status t.regs.status false true true false code
    ∧ t.regs = { s.regs with
        status := t.regs.status
        outLen := 0
        ctLen := 0
        keyLen := if wiped then 0 else s.regs.keyLen
        key0 := if wiped then 0 else s.regs.key0
        key1 := if wiped then 0 else s.regs.key1
        key2 := if wiped then 0 else s.regs.key2
        key3 := if wiped then 0 else s.regs.key3 }
    ∧ t.seq = .idle ∧ t.dst = s.dst ∧ t.freeIdx = s.freeIdx ∧ SameOutside s t

/-- R304: `t` is `s` with the ENGINE's UnwrittenRead recorded and the ENGINE stopped; SEQ and all else stay. -/
def EngineFaulted (s t : State) : Prop :=
  t = { s with faults := { s.faults with unwrittenRead := true }, engineStopped := true }

/-- R304: `t` is `s` with the HOST's UnwrittenRead recorded, the HOST stopped and no value returned. -/
def HostFaulted (s t : State) : Prop :=
  t = { s with faults := { s.faults with unwrittenRead := true }, hostStopped := true, response := none }

/-- R61: everything the result of a completion is a function of: the command word; PROTOCOL_VERSION, PRODUCT_ID,
APP_VERSION, SRC_LEN, KEY_LEN and KEY0 to KEY3; SRC; the capacity of DST; and the number of the next draw. -/
def SameCommandInputs (s u : State) : Prop :=
  u.regs.cmd = s.regs.cmd ∧ u.regs.protocolVersion = s.regs.protocolVersion ∧ u.regs.productId = s.regs.productId
    ∧ u.regs.appVersion = s.regs.appVersion ∧ u.regs.srcLen = s.regs.srcLen ∧ u.regs.keyLen = s.regs.keyLen
    ∧ u.regs.key0 = s.regs.key0 ∧ u.regs.key1 = s.regs.key1 ∧ u.regs.key2 = s.regs.key2 ∧ u.regs.key3 = s.regs.key3
    ∧ u.src = s.src ∧ u.dst.cap = s.dst.cap ∧ u.freeIdx = s.freeIdx

/-- The buffer a space names; REG is none. -/
def State.buffer (s : State) : Space → Option Memory
  | .reg => none
  | .src => some s.src
  | .dst => some s.dst

/-- The same register file apart from the key bytes in KEY0 to KEY3 (R53). -/
def SameButKeyBytes (r q : Regs) : Prop :=
  q = { r with key0 := q.key0, key1 := q.key1, key2 := q.key2, key3 := q.key3 }

/-- R36 to R42: the fields of STATUS agree with SEQ and with one another. -/
structure StatusConsistent (s : State) : Prop where
  /-- R37: BUSY equals 1 exactly when SEQ = BUSY. -/
  busy_iff : statusBusy s.regs.status = true ↔ s.seq = .busy
  /-- R38: DONE is never 1 while BUSY = 1. -/
  not_done : s.seq = .busy → statusDone s.regs.status = false
  /-- R250: a running command has no error and no integrity result yet. -/
  busy_clear : s.seq = .busy →
    statusError s.regs.status = false ∧ statusIntegrityOk s.regs.status = false
  /-- R36: ERR_CODE is 0 when ERROR = 0. -/
  no_code : statusError s.regs.status = false → statusErrCode s.regs.status = 0#4
  /-- R41: an error code is 1 to 6. -/
  code_range : statusError s.regs.status = true →
    1 ≤ (statusErrCode s.regs.status).toNat ∧ (statusErrCode s.regs.status).toNat ≤ 6
  /-- R36, R40: INTEGRITY_OK is the result of a successful completion. -/
  iok_ok : statusIntegrityOk s.regs.status = true →
    statusDone s.regs.status = true ∧ statusError s.regs.status = false
  /-- R42: the reserved bits read 0. -/
  reserved : s.regs.status &&& statusReservedMask = 0#32

/-- R60, R304, R311: FAULTS is empty exactly while no agent has been stopped, and only an UnwrittenRead stops the
ENGINE. -/
structure FaultsConsistent (s : State) : Prop where
  empty_iff : s.faultFree ↔ s.hostStopped = false ∧ s.engineStopped = false
  engine : s.engineStopped = true → s.faults.unwrittenRead = true

/-- The invariant of every step. -/
structure State.Inv (s : State) : Prop where
  status : StatusConsistent s
  faults : FaultsConsistent s
  src : s.src.wf
  dst : s.dst.wf

end Sys2Proof.Machine
end

