-- ==== Sys2Proof/Certificates/Slice0/Obligations.lean ====
section
/-! DEFINITION. The statements made of the model, for the provers. Each docstring names the rule of spec/ it comes
from. Nothing is proved here. -/

open Sys2Proof Sys2Proof.Machine

/-! ### Encoding -/

/-- 95_test_vectors.md, command decode: the words of the opcode map and six words that are illegal. -/
def Obligations.DecodesTheListedWords : Prop :=
  decode 0x00000000#32 = .ok .nop ∧ decode 0x00000001#32 = .ok .create ∧ decode 0x00000002#32 = .ok .recover
    ∧ decode 0x00000003#32 = .ok .pad ∧ decode 0x00000004#32 = .ok .crc32
    ∧ decode 0x00000005#32 = .error .reservedOpcode ∧ decode 0x0000000F#32 = .error .reservedOpcode
    ∧ decode 0x00000010#32 = .error .rsvdNonzero ∧ decode 0x00000011#32 = .error .rsvdNonzero
    ∧ decode 0x80000002#32 = .error .rsvdNonzero ∧ decode 0xFFFFFFFF#32 = .error .rsvdNonzero

/-- R113, R114: the words of the opcode map decode to their instruction, each instruction has that one word, and a
word is illegal exactly when RSVD ≠ 0 or OPCODE ∈ 0x5..0xF. -/
def Obligations.DecodeIsTheOpcodeMap : Prop :=
  (encode .nop = 0x00000000#32 ∧ encode .create = 0x00000001#32 ∧ encode .recover = 0x00000002#32
    ∧ encode .pad = 0x00000003#32 ∧ encode .crc32 = 0x00000004#32)
  ∧ ∀ w : Word, (∀ i : Instr, decode w = .ok i ↔ w = encode i)
    ∧ ((∃ e, decode w = .error e) ↔ (w.extractLsb' 4 28 ≠ 0#28 ∨ 5 ≤ (w.extractLsb' 0 4).toNat))

/-- R133: the parser reads each field at its offset, and parsing a packed header, whatever bytes follow it, gives the
header back. -/
def Obligations.ParserInvertsPacker : Prop :=
  (∀ (h : Header) (tail : Bytes), parseHeader (packHeader h ++ tail) = h)
  ∧ ∀ b : Bytes, 36 ≤ b.length →
    (parseHeader b).protocolVersion = rdle32 b 0 ∧ (parseHeader b).productId = rdle32 b 4
      ∧ (parseHeader b).appVersion = rdle32 b 8 ∧ (parseHeader b).pageCount = rdle32 b 12
      ∧ (parseHeader b).iv.toList = (b.drop 16).take 16 ∧ (parseHeader b).crc = rdle32 b 32

/-- R132, R133: packing what was parsed gives the 36 header bytes back, so the parser drops no bit of them. -/
def Obligations.PackerInvertsParser : Prop :=
  ∀ b : Bytes, 36 ≤ b.length → packHeader (parseHeader b) = b.take 36

/-- R130, R132, R88: a packed header is 36 bytes, byte k of each 32-bit field stands at the field's offset + k, and
IV byte i stands at offset 16 + i. -/
def Obligations.PackedHeaderLayout : Prop :=
  ∀ h : Header, (packHeader h).length = 36
    ∧ (∀ k : Nat, k < 4 →
        (packHeader h)[k]? = some (h.protocolVersion.extractLsb' (8 * k) 8)
        ∧ (packHeader h)[4 + k]? = some (h.productId.extractLsb' (8 * k) 8)
        ∧ (packHeader h)[8 + k]? = some (h.appVersion.extractLsb' (8 * k) 8)
        ∧ (packHeader h)[12 + k]? = some (h.pageCount.extractLsb' (8 * k) 8)
        ∧ (packHeader h)[32 + k]? = some (h.crc.extractLsb' (8 * k) 8))
    ∧ ∀ (i : Nat) (hi : i < 16), (packHeader h)[16 + i]? = some (h.iv[i]'hi)

/-! ### Padding, checksum, cipher -/

/-- R151: the properties of the padding function. -/
def Obligations.PaddingHasItsFiveProperties : Prop :=
  ∀ b : Bytes, (padBytes b).length % 1024 = 0
    ∧ b.length ≤ (padBytes b).length ∧ (padBytes b).length ≤ b.length + 1023
    ∧ (padBytes b).take b.length = b
    ∧ (∀ i : Nat, b.length ≤ i → i < (padBytes b).length → (padBytes b)[i]? = some 0x00#8)
    ∧ (padBytes b = b ↔ b.length % 1024 = 0)

/-- R152: padding is idempotent. -/
def Obligations.PaddingIsIdempotent : Prop :=
  ∀ b : Bytes, padBytes (padBytes b) = padBytes b

/-- R154: the page count of a length n is n / 1024 rounded up, and for every n a register can hold it is at most
2^22. -/
def Obligations.PagesRoundUp : Prop :=
  ∀ n : Nat, pages n = (n + 1023) / 1024 ∧ pages n * 1024 = padLen n
    ∧ (n ≤ 2 ^ 32 - 1 → pages n ≤ 2 ^ 22 ∧ padLen n ≤ 2 ^ 32)
    ∧ (n ≤ 2 ^ 32 - 1 → (2 ^ 32 - 1 < padLen n ↔ 2 ^ 32 - 1024 < n))

/-- R169: the reference values of crc32. -/
def Obligations.ReferenceChecksums : Prop :=
  crc32 [] = 0x00000000#32
    ∧ crc32 [0x31#8, 0x32#8, 0x33#8, 0x34#8, 0x35#8, 0x36#8, 0x37#8, 0x38#8, 0x39#8] = 0xCBF43926#32
    ∧ crc32 [0x00#8] = 0xD202EF8D#32
    ∧ crc32 (zeros 1024) = 0xEFB5AF2E#32
    ∧ crc32 (zeros 2048) = 0xF1E8BA9E#32

/-- R168: the table-driven form is equal to the bit-serial form for every input, and the sample table entries. -/
def Obligations.TableFormEqualsBitSerialForm : Prop :=
  (∀ b : Bytes, crc32Table b = crc32 b)
    ∧ crcTable 0x00#8 = 0x00000000#32 ∧ crcTable 0x01#8 = 0x77073096#32 ∧ crcTable 0x02#8 = 0xEE0E612C#32
    ∧ crcTable 0x80#8 = 0xEDB88320#32 ∧ crcTable 0xFF#8 = 0x2D02EF8D#32

/-- R182, R183: every cipher of the model preserves lengths, Decrypt undoes Encrypt and Encrypt undoes Decrypt, and
Encrypt under one key and IV is injective. -/
def Obligations.CipherIsLengthPreservingAndInvertible : Prop :=
  ∀ (e : Cipher) (k iv : Block16) (b c : Bytes),
    (encryptWith e k iv b).length = b.length ∧ (decryptWith e k iv b).length = b.length
      ∧ decryptWith e k iv (encryptWith e k iv b) = b ∧ encryptWith e k iv (decryptWith e k iv b) = b
      ∧ (encryptWith e k iv b = encryptWith e k iv c → b = c)

/-! ### Reset -/

/-- R62, R300, R301, R303: what a reset step leaves, from every state: each register at its value in R62, SEQ = IDLE,
no buffer cell holding a value, FAULTS as it was. At launch FAULTS is empty. -/
def Obligations.ResetLeavesTheListedValues : Prop :=
  (∀ (s : State) (rest : List Input), s.inputs = .reset :: rest →
    ∃ t, step s = .next t
      ∧ t.regs.get .geometry = 0x00240400#32 ∧ t.regs.get .cryptoGeometry = 0x00001010#32
      ∧ t.regs.get .protocolVersion = 0x00000001#32
      ∧ (∀ n : RegName, n ≠ .geometry → n ≠ .cryptoGeometry → n ≠ .protocolVersion → t.regs.get n = 0x00000000#32)
      ∧ t.seq = .idle ∧ (∀ a, t.src.get a = none) ∧ (∀ a, t.dst.get a = none)
      ∧ t.src.cap = s.src.cap ∧ t.dst.cap = s.dst.cap ∧ t.faults = s.faults ∧ t.inputs = rest)
  ∧ State.reset.regs.get .protocolVersion = 0x00000001#32
  ∧ (∀ n : RegName, n ≠ .geometry → n ≠ .cryptoGeometry → n ≠ .protocolVersion →
      State.reset.regs.get n = 0x00000000#32)
  ∧ State.reset.seq = .idle ∧ (∀ a, State.reset.src.get a = none) ∧ (∀ a, State.reset.dst.get a = none)
  ∧ State.reset.faultFree

/-- R302: a reset while a command is running drops it: after it, and with nothing else to come, no step changes the
machine, no draw is taken, every register stays at its reset value and STATUS at 0. That the machine then stays as it
is, step by step, is the model's choice (notes/assumptions/7.md). -/
def Obligations.ResetDropsTheRunningCommand : Prop :=
  ∀ (s : State) (n : Nat), s.seq = .busy → s.inputs = [.reset] →
    ∃ t, steps (n + 1) s = .next t
      ∧ t.regs = Regs.reset ∧ t.regs.status = 0x00000000#32 ∧ t.seq = .idle ∧ t.freeIdx = s.freeIdx
      ∧ (∀ a, t.dst.get a = none) ∧ (∀ a, t.src.get a = none)

/-! ### The step -/

/-- R251, R31: when the ENGINE is due and the word in CMD decodes to i, the step is exec of i with the ENGINE's turn
taken off the inputs. When the ENGINE is due is the model's choice (notes/assumptions/7.md). -/
def Obligations.StepRunsTheDecodedCommand : Prop :=
  ∀ (s : State) (rest : List Input) (i : Instr), s.engineDue rest → decode s.regs.cmd = .ok i →
    step s = exec i { s with inputs := rest }

/-- R35, R250, R251: a word placed by withFetchWord is issued, and the very next step runs the instruction it decodes
to. (How a program reaches the block is notes/assumptions/9.md.) -/
def Obligations.FetchWordRunsNext : Prop :=
  ∀ (s : State) (w : Nat) (i : Instr), decode (BitVec.ofNat 32 w) = .ok i →
    step (s.withFetchWord 32 w)
      = exec i { issue (BitVec.ofNat 32 w) s with engineStopped := false, inputs := s.inputs }

/-- R60, R304, R311: a step has no next state exactly when the agent that is due has been stopped by a recorded fault,
and no step is ever refused. That such a step ends in a fault of the model is the model's choice
(notes/assumptions/5.md). -/
def Obligations.StepStopsOnlyForAStoppedAgent : Prop :=
  ∀ s : State,
    (step s = .fault .hostStopped ↔ s.hostStopped = true
        ∧ ((∃ t rest, s.inputs = .access t :: rest) ∨ ∃ n rest, s.inputs = .poll n :: rest))
    ∧ (step s = .fault .engineStopped ↔
        s.engineStopped = true ∧ s.seq = .busy ∧ (s.inputs = [] ∨ ∃ rest, s.inputs = .engine :: rest))
    ∧ ∀ r, step s ≠ .refused r

/-- R251: the step of a running command that is due ends in a completion (SEQ = IDLE, BUSY = 0, DONE = 1) or, where a
cell it reads holds no value, in the recorded fault of R304. -/
def Obligations.OneCompletionFollowsEachIssue : Prop :=
  ∀ (s : State) (rest : List Input), s.engineDue rest →
    ∃ t, step s = .next t ∧ t.inputs = rest
      ∧ ((t.seq = .idle ∧ statusBusy t.regs.status = false ∧ statusDone t.regs.status = true
            ∧ t.engineStopped = false ∧ t.faults = s.faults)
        ∨ EngineFaulted { s with inputs := rest } t)

/-- R142 (POLL, RUN), R251: POLL reads STATUS until BUSY reads 0. It ends at its first read where BUSY is 0. While
BUSY is 1 it goes on and changes nothing but the answer; the completion then comes, and the next read ends it. Where the
completion records UnwrittenRead instead, POLL never ends. RUN issues its command and goes on to POLL. And however often
a host has read STATUS, the command completes with the same result. How many reads come before the ENGINE's turn is a
number in the input (notes/assumptions/16.md); that the completion follows when no input is left is the model's choice
(notes/assumptions/7.md). -/
def Obligations.PolledCommandCompletes : Prop :=
  (∀ (s : State) (n : Nat) (rest : List Input), s.hostStopped = false → s.inputs = hostPOLL n ++ rest →
    (statusBusy s.regs.status = false →
      step s = .next { s with inputs := rest, response := some ⟨some s.regs.status, false⟩ })
    ∧ (statusBusy s.regs.status = true → ∀ k, k ≤ n →
      steps k s = .next { s with
        inputs := hostPOLL (n - k) ++ rest
        response := if k = 0 then s.response else some ⟨some s.regs.status, false⟩ }))
  ∧ (∀ (s : State) (n : Nat) (rest : List Input), s.Inv → s.seq = .busy → s.hostStopped = false →
    s.engineStopped = false → s.inputs = hostPOLL n ++ rest →
    ∃ u, complete { s with inputs := hostPOLL 0 ++ rest, response := some ⟨some s.regs.status, false⟩ } = .next u
      ∧ steps (n + 2) s = .next u
      ∧ (u.engineStopped = false → statusBusy u.regs.status = false
          ∧ steps (n + 3) s = .next { u with inputs := rest, response := some ⟨some u.regs.status, false⟩ })
      ∧ (u.engineStopped = true → steps (n + 4) s = .fault .engineStopped))
  ∧ (∀ (s : State) (i : Instr) (n : Nat) (rest : List Input), s.seq = .idle → s.hostStopped = false →
    s.inputs = hostRUN i n ++ rest →
    step s = .next { issue (encode i) s with inputs := hostPOLL n ++ rest, response := some ⟨none, false⟩ })
  ∧ ∀ (s : State) (i : Instr) (n : Nat), s.seq = .busy → s.hostStopped = false → s.engineStopped = false →
    decode s.regs.cmd = .ok i → s.inputs = script (List.replicate n (hostRD .status)) →
    steps (n + 1) s
      = exec i { s with
          inputs := []
          response := if n = 0 then s.response else some ⟨some s.regs.status, false⟩ }

/-- R37 to R42, R57, R58, R60: the invariant: BUSY mirrors SEQ, the fields of STATUS agree with one another, the
reserved bits read 0, FAULTS is empty exactly while both agents run, and both buffers keep their canonical form. -/
def Obligations.EveryStepKeepsTheInvariant : Prop :=
  ∀ s t : State, s.Inv → step s = .next t → t.Inv

/-- The invariant holds at launch. -/
def Obligations.LaunchMeetsTheInvariant : Prop := State.reset.Inv

/-- R60, R303, R304, R311: no step removes a fault. A step that adds one stops the agent it is about. -/
def Obligations.FaultsAreNeverCleared : Prop :=
  ∀ s t : State, step s = .next t →
    (s.faults.unwrittenRead = true → t.faults.unwrittenRead = true)
    ∧ (s.faults.srcWriteWhileBusy = true → t.faults.srcWriteWhileBusy = true)
    ∧ (s.faults.unwrittenRead = false → t.faults.unwrittenRead = true →
        (s.hostStopped = false ∧ t.hostStopped = true) ∨ (s.engineStopped = false ∧ t.engineStopped = true))
    ∧ (s.faults.srcWriteWhileBusy = false → t.faults.srcWriteWhileBusy = true →
        s.seq = .busy ∧ t.hostStopped = true ∧ ∃ tr rest, s.hostDue tr rest ∧ tr.dir = .write ∧ tr.space = .src)

/-- R282: an error report goes away at the next issue and, as R62 says, at a reset; at no other step. -/
def Obligations.ErrorStandsUntilIssueOrReset : Prop :=
  ∀ s t : State, s.Inv → step s = .next t →
    statusError s.regs.status = true → statusError t.regs.status = false →
    (s.seq = .idle ∧ t.seq = .busy ∧ ∃ tr rest, s.hostDue tr rest ∧ tr.dir = .write ∧ tr.space = .reg
        ∧ tr.offset = 0x08#32 ∧ t.regs.cmd = tr.data)
    ∨ ∃ rest, s.inputs = .reset :: rest

/-- R57: SRC changes only by a host write to SRC or by a reset, and its capacity never. -/
def Obligations.OnlyTheHostWritesSrc : Prop :=
  ∀ s t : State, step s = .next t →
    t.src.cap = s.src.cap
    ∧ (t.src = s.src ∨ (∃ tr rest, s.hostDue tr rest ∧ tr.dir = .write ∧ tr.space = .src)
        ∨ ∃ rest, s.inputs = .reset :: rest)

/-- R58: DST changes only at a reset or at the completion of a successful CREATE, RECOVER or PAD, which leaves the
cells at offsets from the new OUT_LEN on as they were; its capacity never changes. -/
def Obligations.OnlyASuccessfulCompletionWritesDst : Prop :=
  ∀ s t : State, s.Inv → step s = .next t →
    t.dst.cap = s.dst.cap
    ∧ (t.dst = s.dst ∨ (∃ rest, s.inputs = .reset :: rest)
        ∨ ∃ rest i, s.engineDue rest ∧ decode s.regs.cmd = .ok i ∧ (i = .create ∨ i = .recover ∨ i = .pad)
            ∧ t.seq = .idle ∧ statusDone t.regs.status = true ∧ statusError t.regs.status = false
            ∧ ∀ a, t.regs.outLen.toNat ≤ a → t.dst.get a = s.dst.get a)

/-! ### Issue and the host port -/

/-- R250: a host write to CMD while SEQ = IDLE issues the word, and while SEQ = BUSY it is ignored. That the host port
answers either write without the error indication is the model's choice (notes/assumptions/8.md). -/
def Obligations.IssueStartsACommand : Prop :=
  ∀ (s : State) (w : Word) (rest : List Input), s.hostDue (hostWR .cmd w) rest →
    (s.seq = .idle → ∃ t, step s = .next t ∧ StatusIs s.regs.status t.regs.status true false false false 0#4
      ∧ t = { s with
          regs := { s.regs with cmd := w, status := t.regs.status }
          seq := .busy
          inputs := rest
          response := some ⟨none, false⟩ })
    ∧ (s.seq = .busy → step s = .next { s with inputs := rest, response := some ⟨none, false⟩ })

/-- R85, with R82 to R84 saying which accesses the block accepts: any other access changes nothing and is answered
with the error indication, a read with data 0. It holds while a command runs too: that a SRC write the block does not
accept is a bus error then, and not the hazard of R311, is the model's reading (notes/assumptions/8.md). -/
def Obligations.UnacceptedAccessIsABusError : Prop :=
  ∀ (s : State) (t : Transaction) (rest : List Input), s.hostDue t rest →
    ((t.space = .reg ∧ ¬ (t.width = 4 ∧ t.offset.toNat % 4 = 0 ∧ t.offset.toNat < 256))
      ∨ (t.space = .src ∧ ¬ (t.width = 1 ∧ t.offset.toNat < s.src.cap)
          ∧ ¬ (t.width = 4 ∧ t.offset.toNat % 4 = 0 ∧ t.offset.toNat + 3 < s.src.cap))
      ∨ (t.space = .dst ∧ t.dir = .read ∧ ¬ (t.width = 1 ∧ t.offset.toNat < s.dst.cap)
          ∧ ¬ (t.width = 4 ∧ t.offset.toNat % 4 = 0 ∧ t.offset.toNat + 3 < s.dst.cap))
      ∨ (t.space = .dst ∧ t.dir = .write)) →
    (t.dir = .read → step s = .next { s with inputs := rest, response := some ⟨some 0#32, true⟩ })
    ∧ (t.dir = .write → step s = .next { s with inputs := rest, response := some ⟨none, true⟩ })

/-- R82, R53, R55, R56, R33, R34: an aligned read of REG returns the register at that offset, 0 for a KEY register and
0 at a reserved offset, and changes nothing. -/
def Obligations.RegisterReadsFollowTheMap : Prop :=
  ∀ (s : State) (rest : List Input),
    (∀ n : RegName, s.hostDue (hostRD n) rest →
      step s = .next { s with
        inputs := rest
        response := some ⟨some (if n = .key0 ∨ n = .key1 ∨ n = .key2 ∨ n = .key3 then 0#32 else s.regs.get n), false⟩ })
    ∧ s.regs.get .geometry = 0x00240400#32 ∧ s.regs.get .cryptoGeometry = 0x00001010#32
    ∧ ∀ o : Word, (o = 0x38#32 ∨ o = 0x3C#32 ∨ (0x60 ≤ o.toNat ∧ o.toNat ≤ 0xFC ∧ o.toNat % 4 = 0)) →
      s.hostDue ⟨.read, .reg, o, 4, 0#32⟩ rest →
      step s = .next { s with inputs := rest, response := some ⟨some 0#32, false⟩ }

/-- R82, R55, R56: an aligned write of REG while no command runs stores the value in an RW or WO register other than
CMD, every other register keeping its value, and is ignored at an RO register and at a reserved offset. That an ignored
write is answered without the error indication is the model's choice (notes/assumptions/8.md). -/
def Obligations.RegisterWritesFollowTheMap : Prop :=
  ∀ (s : State) (v : Word) (rest : List Input), s.seq = .idle →
    (∀ n : RegName, s.hostDue (hostWR n v) rest →
      (n = .protocolVersion ∨ n = .productId ∨ n = .appVersion ∨ n = .srcLen ∨ n = .keyLen
          ∨ n = .key0 ∨ n = .key1 ∨ n = .key2 ∨ n = .key3 →
        ∃ t, step s = .next t ∧ t.regs.get n = v ∧ (∀ k, k ≠ n → t.regs.get k = s.regs.get k)
          ∧ t = { s with regs := t.regs, inputs := rest, response := some ⟨none, false⟩ })
      ∧ (n = .geometry ∨ n = .cryptoGeometry ∨ n = .status ∨ n = .pageCount ∨ n = .crcComputed ∨ n = .crcStored
          ∨ n = .outLen ∨ n = .ctLen ∨ n = .iv0 ∨ n = .iv1 ∨ n = .iv2 ∨ n = .iv3 →
        step s = .next { s with inputs := rest, response := some ⟨none, false⟩ }))
    ∧ ∀ o : Word, (o = 0x38#32 ∨ o = 0x3C#32 ∨ (0x60 ≤ o.toNat ∧ o.toNat ≤ 0xFC ∧ o.toNat % 4 = 0)) →
      s.hostDue ⟨.write, .reg, o, 4, v⟩ rest →
      step s = .next { s with inputs := rest, response := some ⟨none, false⟩ }

/-- R310: while a command runs every accepted host write to REG is ignored, host reads of REG return the current
values, and no host access at all changes a register, SEQ or DST. For an accepted SRC write, whose result R311 gives no
meaning, that the registers, SEQ and DST keep their values is the model's choice (notes/assumptions/4.md); that an ignored
write is answered without the error indication is too (notes/assumptions/8.md). -/
def Obligations.RegistersHoldWhileBusy : Prop :=
  ∀ (s : State) (tr : Transaction) (rest : List Input), s.seq = .busy → s.hostDue tr rest →
    (∃ t, step s = .next t ∧ t.regs = s.regs ∧ t.seq = .busy ∧ t.dst = s.dst)
    ∧ (tr.space = .reg → tr.dir = .write → tr.width = 4 → tr.offset.toNat % 4 = 0 → tr.offset.toNat < 256 →
        step s = .next { s with inputs := rest, response := some ⟨none, false⟩ })
    ∧ (∀ n : RegName, tr = hostRD n →
        step s = .next { s with
          inputs := rest
          response := some ⟨some (if n.rights = .wo then 0#32 else s.regs.get n), false⟩ })

/-- R94: a host read changes no register, no buffer and nothing of the ENGINE; all it can do is return a value or
record UnwrittenRead. -/
def Obligations.HostReadsChangeNothing : Prop :=
  ∀ (s : State) (tr : Transaction) (rest : List Input), tr.dir = .read → s.hostDue tr rest →
    ∃ t, step s = .next t
      ∧ ((∃ r, t = { s with inputs := rest, response := some r }) ∨ HostFaulted { s with inputs := rest } t)

/-- R53: the key bytes never reach the host: two states that differ only in KEY0 to KEY3 answer every host access
alike and still differ only there. -/
def Obligations.KeyBytesCannotBeReadBack : Prop :=
  ∀ (s : State) (r : Regs) (tr : Transaction) (rest : List Input),
    SameButKeyBytes s.regs r → s.hostDue tr rest →
    ∃ t u, step s = .next t ∧ step { s with regs := r } = .next u
      ∧ t.response = u.response ∧ SameButKeyBytes t.regs u.regs ∧ u = { t with regs := u.regs }

/-- R83, R87: a host write to SRC while no command runs stores its bytes little-endian, and nothing else changes. -/
def Obligations.SrcWritesAreLittleEndian : Prop :=
  ∀ (s : State) (a : Word) (rest : List Input), s.seq = .idle →
    (∀ v : Word, s.hostDue (hostSW a v) rest → a.toNat % 4 = 0 → a.toNat + 3 < s.src.cap →
      ∃ t, step s = .next t
        ∧ (∀ x, t.src.get x =
            if a.toNat ≤ x ∧ x < a.toNat + 4 then some (v.extractLsb' (8 * (x - a.toNat)) 8) else s.src.get x)
        ∧ t = { s with src := ⟨s.src.cap, t.src.cells⟩, inputs := rest, response := some ⟨none, false⟩ })
    ∧ ∀ b : Byte, s.hostDue (hostSB a b) rest → a.toNat < s.src.cap →
      ∃ t, step s = .next t
        ∧ (∀ x, t.src.get x = if x = a.toNat then some b else s.src.get x)
        ∧ t = { s with src := ⟨s.src.cap, t.src.cells⟩, inputs := rest, response := some ⟨none, false⟩ }

/-- R83, R84, R87, R304: an accepted read of SRC or DST, whether or not a command runs, returns its bytes
little-endian when every cell it touches holds a value, and records UnwrittenRead otherwise. That bits 31 to 8 of the
answer to a byte read are 0 is the model's choice (notes/assumptions/8.md). -/
def Obligations.BufferReadsAreLittleEndian : Prop :=
  ∀ (s : State) (sp : Space) (m : Memory) (a : Word) (rest : List Input), s.buffer sp = some m →
    (s.hostDue (hostLW sp a) rest → a.toNat % 4 = 0 → a.toNat + 3 < m.cap →
      (∀ v : Word, (∀ k, k < 4 → m.get (a.toNat + k) = some (v.extractLsb' (8 * k) 8)) →
        step s = .next { s with inputs := rest, response := some ⟨some v, false⟩ })
      ∧ ((∃ k, k < 4 ∧ m.get (a.toNat + k) = none) →
        ∃ t, step s = .next t ∧ HostFaulted { s with inputs := rest } t))
    ∧ (s.hostDue (hostLB sp a) rest → a.toNat < m.cap →
      (∀ b : Byte, m.get a.toNat = some b →
        step s = .next { s with inputs := rest, response := some ⟨some (b.setWidth 32), false⟩ })
      ∧ (m.get a.toNat = none → ∃ t, step s = .next t ∧ HostFaulted { s with inputs := rest } t))

/-- R86: a 4-byte write to SRC leaves the machine in the state the four 1-byte writes leave it in. -/
def Obligations.WordWriteIsFourByteWrites : Prop :=
  ∀ (s : State) (a v : Word), s.seq = .idle → s.hostStopped = false →
    a.toNat % 4 = 0 → a.toNat + 3 < s.src.cap →
    steps 4 { s with
        inputs := script [hostSB a (v.extractLsb' 0 8), hostSB (a + 1) (v.extractLsb' 8 8),
          hostSB (a + 2) (v.extractLsb' 16 8), hostSB (a + 3) (v.extractLsb' 24 8)] }
      = step { s with inputs := script [hostSW a v] }

/-- R311: an accepted host write to SRC while a command runs records SrcWriteWhileBusy, and the HOST takes no further
step: after any number of further steps, whatever inputs come, a host access or a POLL that is next has no next state.
The write changes no register, no DST cell and no SRC cell outside its bytes. A host read of SRC while a command
runs has no such effect. R311 gives the result of the write no meaning, so three clauses are the model's own: that the
SRC cells outside the bytes written, the registers, SEQ and DST keep their values, and that the ENGINE is not stopped
(both notes/assumptions/4.md), and that the host port answers nothing (notes/assumptions/8.md). That the HOST stays
stopped over a reset is the model's reading (notes/assumptions/6.md), and that its step ends in a fault of the model is
the model's choice (notes/assumptions/5.md). -/
def Obligations.SrcWriteWhileBusyIsRecorded : Prop :=
  ∀ (s : State) (tr : Transaction) (rest : List Input), s.seq = .busy → s.hostDue tr rest → tr.space = .src →
    (tr.width = 1 ∧ tr.offset.toNat < s.src.cap
      ∨ tr.width = 4 ∧ tr.offset.toNat % 4 = 0 ∧ tr.offset.toNat + 3 < s.src.cap) →
    (tr.dir = .write → ∃ t, step s = .next t
      ∧ t.faults = { s.faults with srcWriteWhileBusy := true } ∧ t.hostStopped = true ∧ t.response = none
      ∧ t.regs = s.regs ∧ t.seq = .busy ∧ t.dst = s.dst ∧ t.src.cap = s.src.cap
      ∧ t.engineStopped = s.engineStopped ∧ t.inputs = rest
      ∧ (∀ (n : Nat) (later : List Input) (v : State), steps n { t with inputs := later } = .next v →
          v.hostStopped = true
          ∧ ((∃ tr' rest', v.inputs = .access tr' :: rest') ∨ (∃ k rest', v.inputs = .poll k :: rest') →
            step v = .fault .hostStopped))
      ∧ ∀ x, x < tr.offset.toNat ∨ tr.offset.toNat + tr.width ≤ x → t.src.get x = s.src.get x)
    ∧ (tr.dir = .read → ∃ t, step s = .next t
      ∧ t.faults.srcWriteWhileBusy = s.faults.srcWriteWhileBusy ∧ t.src = s.src ∧ t.regs = s.regs)

/-- R142: LDKEY loads the key and its length, and nothing else. -/
def Obligations.LdkeyLoadsTheKey : Prop :=
  ∀ (s : State) (k : Block16) (rest : List Input), s.seq = .idle → s.hostStopped = false →
    s.inputs = script (hostLDKEY k) ++ rest →
    ∃ t, steps 5 s = .next t
      ∧ keyBytes t.regs = k ∧ t.regs.keyLen = 16#32
      ∧ t = { s with
          regs := { s.regs with
            keyLen := t.regs.keyLen
            key0 := t.regs.key0
            key1 := t.regs.key1
            key2 := t.regs.key2
            key3 := t.regs.key3 }
          inputs := rest
          response := some ⟨none, false⟩ }

/-- R142: LDSRC stores its bytes at the given offset, sets SRC_LEN, and does nothing else. -/
def Obligations.LdsrcLoadsTheSource : Prop :=
  ∀ (s : State) (off : Word) (b : Bytes) (rest : List Input), s.seq = .idle → s.hostStopped = false →
    off.toNat + b.length ≤ s.src.cap → s.src.cap < 2 ^ 32 →
    s.inputs = script (hostLDSRC off b) ++ rest →
    ∃ t, steps (b.length + 1) s = .next t
      ∧ (∀ x, t.src.get x =
          if off.toNat ≤ x ∧ x < off.toNat + b.length then b[x - off.toNat]? else s.src.get x)
      ∧ t.regs.srcLen.toNat = off.toNat + b.length
      ∧ t = { s with
          regs := { s.regs with srcLen := t.regs.srcLen }
          src := ⟨s.src.cap, t.src.cells⟩
          inputs := rest
          response := some ⟨none, false⟩ }

/-! ### The commands: results, completion and frames -/

/-- R252: NOP completes without effect: STATUS reports success and everything else is unchanged. -/
def Obligations.NopCompletesWithoutEffect : Prop :=
  decode 0x00000000#32 = .ok .nop
  ∧ ∀ s : State, ∃ t, exec .nop s = .next t
    ∧ StatusIs s.regs.status t.regs.status false true false false 0#4
    ∧ (s.regs.status &&& 0xFFFFF0F0#32 = 0#32 → t.regs.status = 0x00000002#32)
    ∧ t = { s with regs := { s.regs with status := t.regs.status }, seq := .idle }

/-- R253, R276, R280: the completion of an illegal word: ILLEGAL_COMMAND, OUT_LEN and CT_LEN 0, the key not wiped,
nothing else changed. -/
def Obligations.IllegalWordIsReported : Prop :=
  ∀ (s : State) (rest : List Input) (w : IllegalWord), s.engineDue rest → decode s.regs.cmd = .error w →
    ∃ t, step s = .next t ∧ ErrorsWith 6#4 false { s with inputs := rest } t
      ∧ (s.regs.status &&& 0xFFFFF0F0#32 = 0#32 → t.regs.status = 0x00000606#32)

/-- R156, R150: PAD on a source that fits and is written: the padded bytes in DST, OUT_LEN and PAGE_COUNT, and all
else unchanged. -/
def Obligations.PadStoresThePaddedSource : Prop :=
  ∀ s : State, s.regs.srcLen.toNat ≤ s.src.cap → padLen s.regs.srcLen.toNat ≤ s.dst.cap → s.dst.cap < 2 ^ 32 →
    (∀ a, a < s.regs.srcLen.toNat → s.src.get a ≠ none) →
    ∃ t, exec .pad s = .next t
      ∧ (∀ a, a < s.regs.srcLen.toNat → t.dst.get a = s.src.get a)
      ∧ (∀ a, s.regs.srcLen.toNat ≤ a → a < padLen s.regs.srcLen.toNat → t.dst.get a = some 0x00#8)
      ∧ (∀ a, padLen s.regs.srcLen.toNat ≤ a → t.dst.get a = s.dst.get a)
      ∧ t.regs.outLen.toNat = padLen s.regs.srcLen.toNat
      ∧ t.regs.pageCount.toNat = padLen s.regs.srcLen.toNat / 1024
      ∧ StatusIs s.regs.status t.regs.status false true false false 0#4
      ∧ t.regs = { s.regs with
          status := t.regs.status
          outLen := t.regs.outLen
          pageCount := t.regs.pageCount
          ctLen := 0#32 }
      ∧ t.seq = .idle ∧ t.freeIdx = s.freeIdx ∧ SameOutside s t

/-- R170: CRC32 on a source that fits and is written: CRC_COMPUTED is the checksum of the SRC bytes as they are,
OUT_LEN and CT_LEN are 0, and all else is unchanged. -/
def Obligations.ChecksumCommandLeavesTheChecksum : Prop :=
  ∀ (s : State) (q : Bytes), s.regs.srcLen.toNat ≤ s.src.cap → q.length = s.regs.srcLen.toNat →
    (∀ a, a < q.length → s.src.get a = q[a]?) →
    ∃ t, exec .crc32 s = .next t
      ∧ StatusIs s.regs.status t.regs.status false true false false 0#4
      ∧ t = { s with
          regs := { s.regs with status := t.regs.status, crcComputed := crc32 q, outLen := 0#32, ctLen := 0#32 }
          seq := .idle }

/-- R200, R202: CREATE with a 16-byte key, on a source that fits and is written, with room in DST for the frame: the
frame's bytes, the registers it writes, the key wiped, one draw taken, and all else unchanged. -/
def Obligations.CreateStoresTheFrame : Prop :=
  ∀ (s : State) (q : Bytes), s.regs.keyLen = 16#32 → s.regs.srcLen.toNat ≤ s.src.cap →
    36 + padLen s.regs.srcLen.toNat ≤ s.dst.cap → s.dst.cap < 2 ^ 32 →
    q.length = s.regs.srcLen.toNat → (∀ a, a < q.length → s.src.get a = q[a]?) →
    ∃ t, exec .create s = .next t
      ∧ t.dst.read 0 (36 + padLen q.length) = some
          (le32 s.regs.protocolVersion ++ le32 s.regs.productId ++ le32 s.regs.appVersion
            ++ le32 (BitVec.ofNat 32 (padLen q.length / 1024)) ++ (Config.ivDraw s.freeIdx).toList
            ++ le32 (crc32 (padBytes q))
            ++ encryptWith Config.cipher (keyBytes s.regs) (Config.ivDraw s.freeIdx) (padBytes q))
      ∧ (∀ a, 36 + padLen q.length ≤ a → t.dst.get a = s.dst.get a)
      ∧ t.regs.pageCount.toNat = padLen q.length / 1024
      ∧ t.regs.outLen.toNat = 36 + padLen q.length
      ∧ t.regs.ctLen.toNat = padLen q.length
      ∧ StatusIs s.regs.status t.regs.status false true false false 0#4
      ∧ t.regs = { s.regs with
          status := t.regs.status
          pageCount := t.regs.pageCount
          outLen := t.regs.outLen
          ctLen := t.regs.ctLen
          crcComputed := crc32 (padBytes q)
          crcStored := crc32 (padBytes q)
          iv0 := rdle32 (Config.ivDraw s.freeIdx).toList 0
          iv1 := rdle32 (Config.ivDraw s.freeIdx).toList 4
          iv2 := rdle32 (Config.ivDraw s.freeIdx).toList 8
          iv3 := rdle32 (Config.ivDraw s.freeIdx).toList 12
          keyLen := 0#32
          key0 := 0#32
          key1 := 0#32
          key2 := 0#32
          key3 := 0#32 }
      ∧ t.seq = .idle ∧ t.freeIdx = s.freeIdx + 1 ∧ SameOutside s t

/-- R230, R233 to R235: RECOVER with a 16-byte key on a frame that passes its checks: the decrypted bytes in DST
whether or not the checksum matches, the header fields in their registers whatever they are, INTEGRITY_OK the result
of the comparison, the key wiped, and all else unchanged. `b` are the 36 header bytes, `ct` the ciphertext. -/
def Obligations.RecoverStoresThePlaintext : Prop :=
  ∀ (s : State) (b ct : Bytes), s.regs.keyLen = 16#32 → s.regs.srcLen.toNat ≤ s.src.cap →
    36 ≤ s.regs.srcLen.toNat → s.src.read 0 36 = some b →
    (rdle32 b 12).toNat * 1024 ≤ s.regs.srcLen.toNat - 36 → (rdle32 b 12).toNat * 1024 ≤ s.dst.cap →
    s.src.read 36 ((rdle32 b 12).toNat * 1024) = some ct →
    ∃ t, exec .recover s = .next t
      ∧ t.dst.read 0 ((rdle32 b 12).toNat * 1024)
          = some (decryptWith Config.cipher (keyBytes s.regs) (block16At b 16) ct)
      ∧ (∀ a, (rdle32 b 12).toNat * 1024 ≤ a → t.dst.get a = s.dst.get a)
      ∧ t.regs.outLen.toNat = (rdle32 b 12).toNat * 1024
      ∧ t.regs.ctLen.toNat = (rdle32 b 12).toNat * 1024
      ∧ StatusIs s.regs.status t.regs.status false true false
          (decide (crc32 (decryptWith Config.cipher (keyBytes s.regs) (block16At b 16) ct) = rdle32 b 32)) 0#4
      ∧ t.regs = { s.regs with
          status := t.regs.status
          outLen := t.regs.outLen
          ctLen := t.regs.ctLen
          protocolVersion := rdle32 b 0
          productId := rdle32 b 4
          appVersion := rdle32 b 8
          pageCount := rdle32 b 12
          iv0 := rdle32 b 16
          iv1 := rdle32 b 20
          iv2 := rdle32 b 24
          iv3 := rdle32 b 28
          crcStored := rdle32 b 32
          crcComputed := crc32 (decryptWith Config.cipher (keyBytes s.regs) (block16At b 16) ct)
          keyLen := 0#32
          key0 := 0#32
          key1 := 0#32
          key2 := 0#32
          key3 := 0#32 }
      ∧ t.seq = .idle ∧ t.freeIdx = s.freeIdx ∧ SameOutside s t

/-- R204: the round trip. A frame that CREATE made from a plaintext q under a key, copied to SRC of a machine that
holds the same key, is recovered: RECOVER completes without error, writes pad(q), restores the three header fields and
sets INTEGRITY_OK. For every cipher and every draw, those of `exec` among them. -/
def Obligations.RecoverUndoesCreate : Prop :=
  (∀ s : State, exec .create s = .next (createCompletion Config.cipher (Config.ivDraw s.freeIdx) s)
    ∧ exec .recover s = .next (recoverCompletion Config.cipher s))
  ∧ ∀ (e : Cipher) (iv : Block16) (s t u : State) (q : Bytes), s.regs.keyLen = 16#32 →
    s.regs.srcLen.toNat ≤ s.src.cap → 36 + padLen s.regs.srcLen.toNat ≤ s.dst.cap → s.dst.cap < 2 ^ 32 →
    s.src.read 0 s.regs.srcLen.toNat = some q → t = createCompletion e iv s →
    u.regs.srcLen = t.regs.outLen → (∀ a, a < t.regs.outLen.toNat → u.src.get a = t.dst.get a) →
    t.regs.outLen.toNat ≤ u.src.cap → padLen q.length ≤ u.dst.cap →
    u.regs.keyLen = 16#32 → keyBytes u.regs = keyBytes s.regs →
    StatusIs u.regs.status (recoverCompletion e u).regs.status false true false true 0#4
      ∧ (recoverCompletion e u).dst.read 0 (padLen q.length) = some (padBytes q)
      ∧ (recoverCompletion e u).regs.outLen.toNat = padLen q.length
      ∧ (recoverCompletion e u).regs.protocolVersion = s.regs.protocolVersion
      ∧ (recoverCompletion e u).regs.productId = s.regs.productId
      ∧ (recoverCompletion e u).regs.appVersion = s.regs.appVersion

/-- R187: two CREATE completions of one state with different draws differ in the IV at frame offsets 16..31, in the
ciphertext from offset 36 on, and in IV0 to IV3; in nothing else. -/
def Obligations.DrawsChangeOnlyIvAndCiphertext : Prop :=
  ∀ (e : Cipher) (iv jv : Block16) (s t u : State), t = createCompletion e iv s → u = createCompletion e jv s →
    (∀ a, a < 16 ∨ (32 ≤ a ∧ a < 36) ∨ 36 + padLen s.regs.srcLen.toNat ≤ a → u.dst.get a = t.dst.get a)
    ∧ u = { t with
        regs := { t.regs with iv0 := u.regs.iv0, iv1 := u.regs.iv1, iv2 := u.regs.iv2, iv3 := u.regs.iv3 }
        dst := ⟨t.dst.cap, u.dst.cells⟩ }

/-- R134: a frame CREATE has made satisfies pageCount × 1024 = ciphertext length, and its length is
36 + pageCount × 1024; every byte of it is in DST. -/
def Obligations.FrameLengthsAgree : Prop :=
  ∀ s t : State, s.dst.cap < 2 ^ 32 → s.engineStopped = false → exec .create s = .next t →
    t.engineStopped = false → statusError t.regs.status = false →
    t.regs.pageCount.toNat * 1024 = t.regs.ctLen.toNat
      ∧ t.regs.outLen.toNat = 36 + t.regs.pageCount.toNat * 1024
      ∧ ∀ a, a < t.regs.outLen.toNat → t.dst.get a ≠ none

/-- R89: after a successful CREATE a host word read of DST at offset 4m, m = 0..8, returns the header word there. -/
def Obligations.HeaderWordsReadBack : Prop :=
  ∀ (s t : State) (rest : List Input), s.dst.cap < 2 ^ 32 → s.engineStopped = false → exec .create s = .next t →
    t.engineStopped = false → statusError t.regs.status = false →
    ∀ (m : Nat) (w : Word),
      (m, w) ∈ [(0, t.regs.protocolVersion), (1, t.regs.productId), (2, t.regs.appVersion), (3, t.regs.pageCount),
        (4, t.regs.iv0), (5, t.regs.iv1), (6, t.regs.iv2), (7, t.regs.iv3), (8, t.regs.crcStored)] →
      t.hostDue (hostLW .dst (BitVec.ofNat 32 (4 * m))) rest →
      step t = .next { t with inputs := rest, response := some ⟨some w, false⟩ }

/-- R232: SRC bytes from offset 36 + need on are ignored: changing them, and SRC_LEN with them, changes nothing that
RECOVER writes. -/
def Obligations.TrailingBytesAreIgnored : Prop :=
  ∀ (s u : State) (b : Bytes), s.regs.keyLen = 16#32 →
    u = { s with src := u.src, regs := { s.regs with srcLen := u.regs.srcLen } } →
    s.regs.srcLen.toNat ≤ s.src.cap → u.regs.srcLen.toNat ≤ u.src.cap →
    s.src.read 0 36 = some b →
    36 + (rdle32 b 12).toNat * 1024 ≤ s.regs.srcLen.toNat → 36 + (rdle32 b 12).toNat * 1024 ≤ u.regs.srcLen.toNat →
    (∀ a, a < 36 + (rdle32 b 12).toNat * 1024 → u.src.get a = s.src.get a) →
    ∃ t, exec .recover s = .next t
      ∧ exec .recover u = .next { t with src := u.src, regs := { t.regs with srcLen := u.regs.srcLen } }

/-! ### Errors and faults of the commands -/

/-- R271: INVALID_KEY_LENGTH is the first check of CREATE and RECOVER, whatever SRC holds. -/
def Obligations.WrongKeyLengthIsReportedFirst : Prop :=
  ∀ s : State, s.regs.keyLen ≠ 16#32 →
    (decode s.regs.cmd = .ok .create → ∃ t, exec .create s = .next t ∧ ErrorsWith 1#4 true s t)
    ∧ (decode s.regs.cmd = .ok .recover → ∃ t, exec .recover s = .next t ∧ ErrorsWith 1#4 true s t)

/-- R272: INPUT_READ_ERROR when SRC_LEN > SRC_CAP. -/
def Obligations.SourceBeyondCapacityIsReported : Prop :=
  ∀ s : State, s.src.cap < s.regs.srcLen.toNat →
    (decode s.regs.cmd = .ok .create → s.regs.keyLen = 16#32 →
      ∃ t, exec .create s = .next t ∧ ErrorsWith 2#4 true s t)
    ∧ (decode s.regs.cmd = .ok .recover → s.regs.keyLen = 16#32 →
      ∃ t, exec .recover s = .next t ∧ ErrorsWith 2#4 true s t)
    ∧ (decode s.regs.cmd = .ok .pad → ∃ t, exec .pad s = .next t ∧ ErrorsWith 2#4 false s t)
    ∧ (decode s.regs.cmd = .ok .crc32 → ∃ t, exec .crc32 s = .next t ∧ ErrorsWith 2#4 false s t)

/-- R273: OUTPUT_WRITE_ERROR when the output does not fit in DST, the earlier checks of R278 having passed. -/
def Obligations.OutputBeyondCapacityIsReported : Prop :=
  ∀ s : State, s.regs.srcLen.toNat ≤ s.src.cap →
    (decode s.regs.cmd = .ok .create → s.regs.keyLen = 16#32 → s.dst.cap < 36 + padLen s.regs.srcLen.toNat →
      ∃ t, exec .create s = .next t ∧ ErrorsWith 3#4 true s t)
    ∧ (decode s.regs.cmd = .ok .recover → s.regs.keyLen = 16#32 → ∀ b : Bytes, s.src.read 0 36 = some b →
      36 + (rdle32 b 12).toNat * 1024 ≤ s.regs.srcLen.toNat → s.dst.cap < (rdle32 b 12).toNat * 1024 →
      ∃ t, exec .recover s = .next t ∧ ErrorsWith 3#4 true s t)
    ∧ (decode s.regs.cmd = .ok .pad → s.dst.cap < padLen s.regs.srcLen.toNat →
      ∃ t, exec .pad s = .next t ∧ ErrorsWith 3#4 false s t)

/-- R274: INVALID_HEADER when the container is shorter than 36 bytes, and never for a container of 36 bytes or
more. -/
def Obligations.ShortContainerIsReported : Prop :=
  ∀ s : State, decode s.regs.cmd = .ok .recover → s.regs.keyLen = 16#32 → s.regs.srcLen.toNat ≤ s.src.cap →
    (s.regs.srcLen.toNat < 36 → ∃ t, exec .recover s = .next t ∧ ErrorsWith 4#4 true s t)
    ∧ (36 ≤ s.regs.srcLen.toNat → ∀ t, exec .recover s = .next t → s.engineStopped = false →
        t.engineStopped = false → statusErrCode t.regs.status ≠ 4#4)

/-- R275, R231: TRUNCATED_CONTAINER when fewer than pageCount × 1024 bytes follow the header, without wrap-around: a
page count of 2^22 or more is always too many. -/
def Obligations.TruncatedContainerIsReported : Prop :=
  ∀ (s : State) (b : Bytes), decode s.regs.cmd = .ok .recover → s.regs.keyLen = 16#32 →
    36 ≤ s.regs.srcLen.toNat → s.regs.srcLen.toNat ≤ s.src.cap → s.src.read 0 36 = some b →
    (s.regs.srcLen.toNat - 36 < (rdle32 b 12).toNat * 1024 →
      ∃ t, exec .recover s = .next t ∧ ErrorsWith 5#4 true s t)
    ∧ (0x00400000 ≤ (rdle32 b 12).toNat → ∃ t, exec .recover s = .next t ∧ ErrorsWith 5#4 true s t)

/-- R304: a command that has passed its checks and reads a cell that holds no value does not complete: UnwrittenRead
is recorded, the ENGINE stops and SEQ stays. -/
def Obligations.UnwrittenSourceStopsTheEngine : Prop :=
  ∀ s : State, s.regs.srcLen.toNat ≤ s.src.cap →
    ((∃ a, a < s.regs.srcLen.toNat ∧ s.src.get a = none) →
      (s.regs.keyLen = 16#32 → 36 + padLen s.regs.srcLen.toNat ≤ s.dst.cap →
        ∃ t, exec .create s = .next t ∧ EngineFaulted s t)
      ∧ (padLen s.regs.srcLen.toNat ≤ s.dst.cap → ∃ t, exec .pad s = .next t ∧ EngineFaulted s t)
      ∧ ∃ t, exec .crc32 s = .next t ∧ EngineFaulted s t)
    ∧ (s.regs.keyLen = 16#32 → 36 ≤ s.regs.srcLen.toNat →
      ((∃ a, a < 36 ∧ s.src.get a = none) → ∃ t, exec .recover s = .next t ∧ EngineFaulted s t)
      ∧ ∀ b : Bytes, s.src.read 0 36 = some b → 36 + (rdle32 b 12).toNat * 1024 ≤ s.regs.srcLen.toNat →
        (rdle32 b 12).toNat * 1024 ≤ s.dst.cap →
        (∃ a, 36 ≤ a ∧ a < 36 + (rdle32 b 12).toNat * 1024 ∧ s.src.get a = none) →
        ∃ t, exec .recover s = .next t ∧ EngineFaulted s t)

/-! ### Rules over all commands -/

/-- R315: no command changes SRC_LEN, and R35: none changes CMD. -/
def Obligations.CommandsKeepSrcLenAndCmd : Prop :=
  ∀ s t : State, complete s = .next t → t.regs.srcLen = s.regs.srcLen ∧ t.regs.cmd = s.regs.cmd

/-- R255, R53: a completed CREATE or RECOVER, successful or not, leaves KEY0 to KEY3 and KEY_LEN at 0; the completion
of any other word leaves them as they are. -/
def Obligations.KeyIsWipedByCreateAndRecoverOnly : Prop :=
  ∀ s t : State, s.engineStopped = false → complete s = .next t → t.engineStopped = false →
    (decode s.regs.cmd = .ok .create ∨ decode s.regs.cmd = .ok .recover →
      t.regs.keyLen = 0#32 ∧ t.regs.key0 = 0#32 ∧ t.regs.key1 = 0#32 ∧ t.regs.key2 = 0#32 ∧ t.regs.key3 = 0#32)
    ∧ (decode s.regs.cmd ≠ .ok .create → decode s.regs.cmd ≠ .ok .recover →
      t.regs.keyLen = s.regs.keyLen ∧ t.regs.key0 = s.regs.key0 ∧ t.regs.key1 = s.regs.key1
        ∧ t.regs.key2 = s.regs.key2 ∧ t.regs.key3 = s.regs.key3)

/-- R313: after a completed CREATE or RECOVER, a CREATE or RECOVER issued next, without a fresh key, completes with
INVALID_KEY_LENGTH. That the completion is the step after the issue is the model's choice
(notes/assumptions/7.md). -/
def Obligations.SecondUseNeedsAFreshKey : Prop :=
  ∀ (s t : State) (i j : Instr), (i = .create ∨ i = .recover) → (j = .create ∨ j = .recover) →
    s.engineDue [] → s.hostStopped = false → decode s.regs.cmd = .ok i → step s = .next t → t.engineStopped = false →
    ∃ u, steps 2 { t with inputs := script [hostWR .cmd (encode j)] } = .next u
      ∧ statusError u.regs.status = true ∧ statusErrCode u.regs.status = 1#4

/-- R40: INTEGRITY_OK is 0 at reset, cleared at an issue, and 1 after a completion exactly when that completion was a
successful RECOVER whose computed and stored checksums agree. -/
def Obligations.IntegrityOkIsRecoversResult : Prop :=
  statusIntegrityOk Regs.reset.status = false
  ∧ (∀ (w : Word) (s : State), statusIntegrityOk (issue w s).regs.status = false)
  ∧ ∀ s t : State, s.engineStopped = false → complete s = .next t → t.engineStopped = false →
    (statusIntegrityOk t.regs.status = true ↔
      decode s.regs.cmd = .ok .recover ∧ statusError t.regs.status = false ∧ t.regs.crcComputed = t.regs.crcStored)

/-- R186: a completion takes one draw exactly when it is a successful CREATE. -/
def Obligations.OnlyASuccessfulCreateDraws : Prop :=
  ∀ s t : State, s.engineStopped = false → complete s = .next t →
    (decode s.regs.cmd = .ok .create ∧ t.engineStopped = false ∧ statusError t.regs.status = false →
      t.freeIdx = s.freeIdx + 1)
    ∧ (¬ (decode s.regs.cmd = .ok .create ∧ t.engineStopped = false ∧ statusError t.regs.status = false) →
      t.freeIdx = s.freeIdx)

/-- R61, R258: the result of a completion is a function of the command's inputs alone: from two states that agree on
them the ENGINE completes in both or in neither, with the same STATUS fields, the same lengths, the same DST bytes below
OUT_LEN, the same value in every other register the command writes, and agreement on the inputs again. -/
def Obligations.ResultDependsOnTheInputsOnly : Prop :=
  ∀ s u t v : State, SameCommandInputs s u → s.engineStopped = false → u.engineStopped = false →
    s.dst.cap < 2 ^ 32 → complete s = .next t → complete u = .next v →
    t.engineStopped = v.engineStopped
    ∧ (t.engineStopped = false →
      (∀ (k : Bool) (c : BitVec 4), StatusIs s.regs.status t.regs.status false true (decide (c ≠ 0#4)) k c →
        StatusIs u.regs.status v.regs.status false true (decide (c ≠ 0#4)) k c)
      ∧ (decode s.regs.cmd ≠ .ok .nop →
        v.regs.outLen = t.regs.outLen ∧ v.regs.ctLen = t.regs.ctLen
          ∧ ∀ a, a < t.regs.outLen.toNat → v.dst.get a = t.dst.get a)
      ∧ SameCommandInputs t v
      ∧ (statusError t.regs.status = false →
        (decode s.regs.cmd = .ok .create ∨ decode s.regs.cmd = .ok .recover ∨ decode s.regs.cmd = .ok .pad →
          v.regs.pageCount = t.regs.pageCount)
        ∧ (decode s.regs.cmd = .ok .create ∨ decode s.regs.cmd = .ok .recover ∨ decode s.regs.cmd = .ok .crc32 →
          v.regs.crcComputed = t.regs.crcComputed)
        ∧ (decode s.regs.cmd = .ok .create ∨ decode s.regs.cmd = .ok .recover →
          v.regs.crcStored = t.regs.crcStored ∧ v.regs.iv0 = t.regs.iv0 ∧ v.regs.iv1 = t.regs.iv1
            ∧ v.regs.iv2 = t.regs.iv2 ∧ v.regs.iv3 = t.regs.iv3)))
end

