-- ==== Sys2Proof/Machine/TestXor.lean ====
section
/-! DEFINITION. The test double of 42_cipher_port.md R189, for running the concrete vectors of 95_test_vectors.md. It is
not the hardware's cipher: no definition of the machine uses it, and no statement about the hardware may rest on it. -/

namespace Sys2Proof.Machine

/-- R189: `TESTXOR.Encrypt(k, iv, p)[i] = p[i] ⊕ k[i mod 16] ⊕ iv[i mod 16]`. -/
def testXorEncrypt (k iv : Block16) (p : Bytes) : Bytes :=
  p.mapIdx fun i b => b ^^^ k[i % 16]'(Nat.mod_lt i (by decide)) ^^^ iv[i % 16]'(Nat.mod_lt i (by decide))

/-- R189: `TESTXOR.Decrypt = TESTXOR.Encrypt`. -/
def testXorDecrypt (k iv : Block16) (c : Bytes) : Bytes := testXorEncrypt k iv c

/-- Xor with two fixed bytes, twice, gives the byte back. -/
theorem xor_twice (b k v : Byte) : b ^^^ k ^^^ v ^^^ k ^^^ v = b := by
  ext i
  simp only [BitVec.getElem_xor]
  cases b[i] <;> cases k[i] <;> cases v[i] <;> rfl

/-- R189: TESTXOR has C-LEN. -/
@[simp] theorem testXorEncrypt_length (k iv : Block16) (p : Bytes) : (testXorEncrypt k iv p).length = p.length := by
  simp [testXorEncrypt]

/-- R189: TESTXOR has C-INV: xor with a fixed byte is an involution. -/
@[simp] theorem testXorEncrypt_testXorEncrypt (k iv : Block16) (p : Bytes) :
    testXorEncrypt k iv (testXorEncrypt k iv p) = p := by
  apply List.ext_getElem (by simp)
  intro i _ _
  simp [testXorEncrypt, xor_twice]

/-- R189, R185: TESTXOR as a CIPHER that the port can be called with. It has the properties of R182. -/
def testXor : Cipher :=
  cipherOf testXorEncrypt testXorDecrypt testXorEncrypt_length testXorEncrypt_length testXorEncrypt_testXorEncrypt
    testXorEncrypt_testXorEncrypt

end Sys2Proof.Machine
end

