-- ==== Sys2Proof/Laws/Cipher.lean ====
section
/-! SUPPORT. The cipher of Config.lean is every pair (Encrypt, Decrypt) of R182 and no other: a pair with C-LEN and
C-INV is one of its values. What the test double of R189 gives. -/

namespace Sys2Proof.Machine

/-- Two byte sequences of one length that are equal give the same ciphertext, whatever proof of the length stands
beside them. -/
theorem perm_val_congr (e : Cipher) (k iv : Block16) {n m : Nat} (h : n = m) {b : Bytes} (hn : b.length = n)
    (hm : b.length = m) :
    (e.perm k iv n ⟨b, hn⟩).val = (e.perm k iv m ⟨b, hm⟩).val
      ∧ ((e.perm k iv n).symm ⟨b, hn⟩).val = ((e.perm k iv m).symm ⟨b, hm⟩).val := by
  subst h
  exact ⟨rfl, rfl⟩

@[simp] theorem encryptWith_length (e : Cipher) (k iv : Block16) (p : Bytes) :
    (encryptWith e k iv p).length = p.length := (e.perm k iv p.length ⟨p, rfl⟩).property

@[simp] theorem decryptWith_length (e : Cipher) (k iv : Block16) (c : Bytes) :
    (decryptWith e k iv c).length = c.length := ((e.perm k iv c.length).symm ⟨c, rfl⟩).property

/-- The port called with that cipher is the pair itself: no CIPHER of R182 is left out. -/
theorem cipherOf_calls (enc dec : Block16 → Block16 → Bytes → Bytes)
    (hel : ∀ k iv p, (enc k iv p).length = p.length) (hdl : ∀ k iv c, (dec k iv c).length = c.length)
    (hde : ∀ k iv p, dec k iv (enc k iv p) = p) (hed : ∀ k iv c, enc k iv (dec k iv c) = c)
    (k iv : Block16) (b : Bytes) :
    encryptWith (cipherOf enc dec hel hdl hde hed) k iv b = enc k iv b
      ∧ decryptWith (cipherOf enc dec hel hdl hde hed) k iv b = dec k iv b := ⟨rfl, rfl⟩

/-- R189: the port called with TESTXOR encrypts byte by byte. -/
theorem encryptWith_testXor (k iv : Block16) (p : Bytes) (i : Nat) (h : i < p.length) :
    (encryptWith testXor k iv p)[i]?
      = some (p[i] ^^^ k[i % 16]'(Nat.mod_lt i (by decide)) ^^^ iv[i % 16]'(Nat.mod_lt i (by decide))) := by
  show (testXorEncrypt k iv p)[i]? = _
  simp [testXorEncrypt, h]

/-- R189: TESTXOR.Decrypt = TESTXOR.Encrypt, through the port. -/
theorem decryptWith_testXor (k iv : Block16) (c : Bytes) : decryptWith testXor k iv c = encryptWith testXor k iv c := rfl

end Sys2Proof.Machine
end

