-- ==== Sys2Proof/Laws/Memory.lean ====
section
/-! SUPPORT. The buffers: a read after a write, what a range read returns, and that every operation keeps the
canonical form `Memory.wf`. -/

namespace Sys2Proof.Machine

@[simp] theorem Memory.write_cap (m : Memory) (a : Nat) (b : Bytes) : (m.write a b).cap = m.cap := rfl
@[simp] theorem Memory.cleared_cap (m : Memory) : m.cleared.cap = m.cap := rfl
@[simp] theorem Memory.cleared_cells (m : Memory) : m.cleared.cells = [] := rfl
@[simp] theorem Memory.get_empty (n a : Nat) : Memory.get ⟨n, []⟩ a = none := rfl
@[simp] theorem Memory.cleared_get (m : Memory) (a : Nat) : m.cleared.get a = none := rfl

/-- What a cell holds depends on the cells at that address only. -/
theorem find_filter_keep {l : List Host.Cell} {p : Host.Cell → Bool} {x : Nat} (h : ∀ c : Host.Cell, c.1 = x → p c = true) :
    (l.filter p).find? (fun c => c.1 == x) = l.find? (fun c => c.1 == x) := by
  induction l with
  | nil => rfl
  | cons c l ih =>
    by_cases hc : c.1 = x
    · simp [h c hc, hc]
    · by_cases hp : p c = true
      · simp [hp, hc, ih]
      · simp [hp, hc, ih]

theorem find_filter_drop {l : List Host.Cell} {p : Host.Cell → Bool} {x : Nat} (h : ∀ c : Host.Cell, c.1 = x → p c = false) :
    (l.filter p).find? (fun c => c.1 == x) = none := by
  simp only [List.find?_eq_none, List.mem_filter, beq_iff_eq]
  rintro c ⟨-, hp⟩ hc
  simp [h c hc] at hp

theorem find_cellsFrom (a : Nat) (b : Bytes) (x : Nat) :
    (cellsFrom a b).find? (fun c => c.1 == x)
      = if a ≤ x then (b[x - a]?).map (fun v => (x, v)) else none := by
  induction b generalizing a with
  | nil => simp [cellsFrom]
  | cons v b ih =>
    rcases Nat.lt_trichotomy a x with h | h | h
    · have hne : ¬ a = x := by omega
      obtain ⟨k, hk⟩ : ∃ k, x - a = k + 1 := ⟨x - a - 1, by omega⟩
      simp [cellsFrom, hne, ih, hk, show a + 1 ≤ x by omega, show a ≤ x by omega, show x - (a + 1) = k by omega]
    · subst h
      simp [cellsFrom]
    · have hne : ¬ a = x := by omega
      simp [cellsFrom, hne, ih, show ¬ a + 1 ≤ x by omega, show ¬ a ≤ x by omega]

/-- A read after a write: the bytes written inside the range, and what was there before outside it. -/
theorem Memory.get_write (m : Memory) (a : Nat) (b : Bytes) (x : Nat) :
    (m.write a b).get x = if a ≤ x ∧ x < a + b.length then b[x - a]? else m.get x := by
  simp only [Memory.get, Memory.write, List.find?_append, find_cellsFrom, Memory.unlisted]
  by_cases h1 : x < a
  · rw [find_filter_keep (by intro c hc; simp [hc, h1]), find_filter_drop (x := x) (by intro c hc; simp [hc]; omega)]
    simp only [show ¬ a ≤ x by omega, if_false, false_and, Option.or_none]
  · rw [find_filter_drop (x := x) (by intro c hc; simp [hc]; omega)]
    by_cases h2 : x < a + b.length
    · have hb : x - a < b.length := by omega
      simp [show a ≤ x by omega, h2, List.getElem?_eq_getElem hb]
    · rw [find_filter_keep (x := x) (by intro c hc; simp [hc]; omega)]
      have hb : b.length ≤ x - a := by omega
      simp [h2, List.getElem?_eq_none hb]

/-- What a range read returns when it returns something. -/
theorem Memory.read_eq_some {m : Memory} {a n : Nat} {b : Bytes} :
    m.read a n = some b ↔ b.length = n ∧ ∀ i, i < n → m.get (a + i) = b[i]? := by
  induction n generalizing a b with
  | zero =>
    simp only [Memory.read, Option.some.injEq, Nat.not_lt_zero, false_implies, implies_true, and_true,
      List.length_eq_zero_iff]
    exact eq_comm
  | succ n ih =>
    simp only [Memory.read]
    constructor
    · intro h
      split at h
      · rename_i v bs hv hbs
        obtain ⟨hlen, hget⟩ := ih.1 hbs
        cases h
        refine ⟨by simp [hlen], ?_⟩
        intro i hi
        cases i with
        | zero => simpa using hv
        | succ i =>
          have := hget i (by omega)
          simpa [Nat.add_assoc, Nat.add_comm 1 i] using this
      · cases h
    · rintro ⟨hlen, hget⟩
      cases b with
      | nil => simp at hlen
      | cons v bs =>
        have hv : m.get a = some v := by simpa using hget 0 (by omega)
        have hbs : m.read (a + 1) n = some bs := ih.2 ⟨by simpa using hlen, by
          intro i hi
          have := hget (i + 1) (by omega)
          simpa [Nat.add_assoc, Nat.add_comm 1 i] using this⟩
        simp [hv, hbs]

/-- A range read returns nothing exactly when a cell of the range holds no value (R15). -/
theorem Memory.read_eq_none {m : Memory} {a n : Nat} :
    m.read a n = none ↔ ∃ i, i < n ∧ m.get (a + i) = none := by
  induction n generalizing a with
  | zero => simp [Memory.read]
  | succ n ih =>
    simp only [Memory.read]
    constructor
    · intro h
      split at h
      · cases h
      · rename_i hno
        cases hv : m.get a with
        | none => exact ⟨0, by omega, by simpa using hv⟩
        | some v =>
          cases hr : m.read (a + 1) n with
          | none =>
            obtain ⟨i, hi, hg⟩ := ih.1 hr
            exact ⟨i + 1, by omega, by simpa [Nat.add_assoc, Nat.add_comm 1 i] using hg⟩
          | some bs => exact absurd hr (hno v bs hv)
    · rintro ⟨i, hi, hg⟩
      cases i with
      | zero => simp at hg; simp [hg]
      | succ i =>
        have : m.read (a + 1) n = none := ih.2 ⟨i, by omega, by simpa [Nat.add_assoc, Nat.add_comm 1 i] using hg⟩
        simp [this]

/-- Reading back what was written. -/
theorem Memory.read_write (m : Memory) (a : Nat) (b : Bytes) : (m.write a b).read a b.length = some b := by
  rw [Memory.read_eq_some]
  refine ⟨rfl, fun i hi => ?_⟩
  rw [Memory.get_write]
  simp [hi]

/-- A range read depends on the cells of the range only. -/
theorem Memory.read_congr {m k : Memory} {a n : Nat} (h : ∀ i, i < n → m.get (a + i) = k.get (a + i)) :
    m.read a n = k.read a n := by
  induction n generalizing a with
  | zero => rfl
  | succ n ih =>
    have h0 : m.get a = k.get a := by simpa using h 0 (by omega)
    have h1 : m.read (a + 1) n = k.read (a + 1) n := ih fun i hi => by
      simpa [Nat.add_assoc, Nat.add_comm 1 i] using h (i + 1) (by omega)
    simp [Memory.read, h0, h1]

theorem mem_cellsFrom {a : Nat} {b : Bytes} {c : Host.Cell} (h : c ∈ cellsFrom a b) : a ≤ c.1 ∧ c.1 < a + b.length := by
  induction b generalizing a with
  | nil => simp [cellsFrom] at h
  | cons v b ih =>
    rcases List.mem_cons.1 h with rfl | h
    · simp
    · have := ih h
      simp only [List.length_cons]
      omega

theorem cellsFrom_sorted (a : Nat) (b : Bytes) : (cellsFrom a b).Pairwise (fun c d => c.1 < d.1) := by
  induction b generalizing a with
  | nil => exact List.Pairwise.nil
  | cons v b ih =>
    refine List.Pairwise.cons (fun c hc => ?_) (ih (a + 1))
    have := (mem_cellsFrom hc).1
    show a < c.1
    omega

/-- Storing inside the capacity keeps the canonical form. -/
theorem Memory.write_wf {m : Memory} (h : m.wf) {a : Nat} {b : Bytes} (hb : a + b.length ≤ m.cap) : (m.write a b).wf := by
  obtain ⟨hs, hlt, hcap⟩ := h
  refine ⟨?_, ?_, hcap⟩
  · simp only [Memory.write, List.pairwise_append]
    refine ⟨⟨hs.filter _, cellsFrom_sorted a b, ?_⟩, hs.filter _, ?_⟩
    · intro c hc d hd
      have h1 := (mem_cellsFrom hd).1
      simp at hc
      omega
    · intro c hc d hd
      simp at hd
      rcases List.mem_append.1 hc with hc | hc
      · simp at hc
        omega
      · have := (mem_cellsFrom hc).2
        omega
  · intro c hc
    simp only [Memory.write, List.mem_append] at hc
    rcases hc with (hc | hc) | hc
    · exact hlt c (List.mem_of_mem_filter hc)
    · have := (mem_cellsFrom hc).2
      simp only [Memory.write_cap]
      omega
    · exact hlt c (List.mem_of_mem_filter hc)

theorem Memory.cleared_wf {m : Memory} (h : m.wf) : m.cleared.wf :=
  ⟨List.Pairwise.nil, by simp, h.2.2⟩

theorem Memory.empty_wf {n : Nat} (h : n < 2 ^ 32) : Memory.wf ⟨n, []⟩ :=
  ⟨List.Pairwise.nil, by simp, h⟩

/-- A cell that holds a value is a cell of the buffer. -/
theorem Memory.lt_cap_of_get {m : Memory} (h : m.wf) {a : Nat} {b : Byte} (hg : m.get a = some b) : a < m.cap := by
  simp only [Memory.get, Memory.unlisted] at hg
  split at hg
  · rename_i c hc
    have h1 := List.find?_some hc
    simp only [beq_iff_eq] at h1
    have h2 := h.2.1 c (List.mem_of_find?_eq_some hc)
    omega
  · cases hg

end Sys2Proof.Machine
end

