-- ==== Sys2Proof/Laws/State.lean ====
section
/-! SUPPORT. One lemma per field per update: what each shared operation leaves in each field of State and of the
register file. All true by unfolding once; later proofs cite them. -/

namespace Sys2Proof.Machine

/-! ### Regs.wipeKey -/

@[simp] theorem Regs.wipeKey_cmd (r : Regs) : (r.wipeKey).cmd = r.cmd := rfl
@[simp] theorem Regs.wipeKey_status (r : Regs) : (r.wipeKey).status = r.status := rfl
@[simp] theorem Regs.wipeKey_protocolVersion (r : Regs) : (r.wipeKey).protocolVersion = r.protocolVersion := rfl
@[simp] theorem Regs.wipeKey_productId (r : Regs) : (r.wipeKey).productId = r.productId := rfl
@[simp] theorem Regs.wipeKey_appVersion (r : Regs) : (r.wipeKey).appVersion = r.appVersion := rfl
@[simp] theorem Regs.wipeKey_pageCount (r : Regs) : (r.wipeKey).pageCount = r.pageCount := rfl
@[simp] theorem Regs.wipeKey_crcComputed (r : Regs) : (r.wipeKey).crcComputed = r.crcComputed := rfl
@[simp] theorem Regs.wipeKey_crcStored (r : Regs) : (r.wipeKey).crcStored = r.crcStored := rfl
@[simp] theorem Regs.wipeKey_srcLen (r : Regs) : (r.wipeKey).srcLen = r.srcLen := rfl
@[simp] theorem Regs.wipeKey_outLen (r : Regs) : (r.wipeKey).outLen = r.outLen := rfl
@[simp] theorem Regs.wipeKey_ctLen (r : Regs) : (r.wipeKey).ctLen = r.ctLen := rfl
@[simp] theorem Regs.wipeKey_keyLen (r : Regs) : (r.wipeKey).keyLen = 0 := rfl
@[simp] theorem Regs.wipeKey_key0 (r : Regs) : (r.wipeKey).key0 = 0 := rfl
@[simp] theorem Regs.wipeKey_key1 (r : Regs) : (r.wipeKey).key1 = 0 := rfl
@[simp] theorem Regs.wipeKey_key2 (r : Regs) : (r.wipeKey).key2 = 0 := rfl
@[simp] theorem Regs.wipeKey_key3 (r : Regs) : (r.wipeKey).key3 = 0 := rfl
@[simp] theorem Regs.wipeKey_iv0 (r : Regs) : (r.wipeKey).iv0 = r.iv0 := rfl
@[simp] theorem Regs.wipeKey_iv1 (r : Regs) : (r.wipeKey).iv1 = r.iv1 := rfl
@[simp] theorem Regs.wipeKey_iv2 (r : Regs) : (r.wipeKey).iv2 = r.iv2 := rfl
@[simp] theorem Regs.wipeKey_iv3 (r : Regs) : (r.wipeKey).iv3 = r.iv3 := rfl

/-! ### Regs.setIv -/

@[simp] theorem Regs.setIv_cmd (iv : Block16) (r : Regs) : (r.setIv iv).cmd = r.cmd := rfl
@[simp] theorem Regs.setIv_status (iv : Block16) (r : Regs) : (r.setIv iv).status = r.status := rfl
@[simp] theorem Regs.setIv_protocolVersion (iv : Block16) (r : Regs) : (r.setIv iv).protocolVersion = r.protocolVersion := rfl
@[simp] theorem Regs.setIv_productId (iv : Block16) (r : Regs) : (r.setIv iv).productId = r.productId := rfl
@[simp] theorem Regs.setIv_appVersion (iv : Block16) (r : Regs) : (r.setIv iv).appVersion = r.appVersion := rfl
@[simp] theorem Regs.setIv_pageCount (iv : Block16) (r : Regs) : (r.setIv iv).pageCount = r.pageCount := rfl
@[simp] theorem Regs.setIv_crcComputed (iv : Block16) (r : Regs) : (r.setIv iv).crcComputed = r.crcComputed := rfl
@[simp] theorem Regs.setIv_crcStored (iv : Block16) (r : Regs) : (r.setIv iv).crcStored = r.crcStored := rfl
@[simp] theorem Regs.setIv_srcLen (iv : Block16) (r : Regs) : (r.setIv iv).srcLen = r.srcLen := rfl
@[simp] theorem Regs.setIv_outLen (iv : Block16) (r : Regs) : (r.setIv iv).outLen = r.outLen := rfl
@[simp] theorem Regs.setIv_ctLen (iv : Block16) (r : Regs) : (r.setIv iv).ctLen = r.ctLen := rfl
@[simp] theorem Regs.setIv_keyLen (iv : Block16) (r : Regs) : (r.setIv iv).keyLen = r.keyLen := rfl
@[simp] theorem Regs.setIv_key0 (iv : Block16) (r : Regs) : (r.setIv iv).key0 = r.key0 := rfl
@[simp] theorem Regs.setIv_key1 (iv : Block16) (r : Regs) : (r.setIv iv).key1 = r.key1 := rfl
@[simp] theorem Regs.setIv_key2 (iv : Block16) (r : Regs) : (r.setIv iv).key2 = r.key2 := rfl
@[simp] theorem Regs.setIv_key3 (iv : Block16) (r : Regs) : (r.setIv iv).key3 = r.key3 := rfl
@[simp] theorem Regs.setIv_iv0 (iv : Block16) (r : Regs) : (r.setIv iv).iv0 = rdle32 iv.toList 0 := rfl
@[simp] theorem Regs.setIv_iv1 (iv : Block16) (r : Regs) : (r.setIv iv).iv1 = rdle32 iv.toList 4 := rfl
@[simp] theorem Regs.setIv_iv2 (iv : Block16) (r : Regs) : (r.setIv iv).iv2 = rdle32 iv.toList 8 := rfl
@[simp] theorem Regs.setIv_iv3 (iv : Block16) (r : Regs) : (r.setIv iv).iv3 = rdle32 iv.toList 12 := rfl

/-! ### dstStore -/

@[simp] theorem dstStore_regs (b : Bytes) (s : State) : (dstStore b s).regs = s.regs := rfl
@[simp] theorem dstStore_seq (b : Bytes) (s : State) : (dstStore b s).seq = s.seq := rfl
@[simp] theorem dstStore_src (b : Bytes) (s : State) : (dstStore b s).src = s.src := rfl
@[simp] theorem dstStore_dst (b : Bytes) (s : State) : (dstStore b s).dst = s.dst.write 0 b := rfl
@[simp] theorem dstStore_faults (b : Bytes) (s : State) : (dstStore b s).faults = s.faults := rfl
@[simp] theorem dstStore_hostStopped (b : Bytes) (s : State) : (dstStore b s).hostStopped = s.hostStopped := rfl
@[simp] theorem dstStore_engineStopped (b : Bytes) (s : State) : (dstStore b s).engineStopped = s.engineStopped := rfl
@[simp] theorem dstStore_inputs (b : Bytes) (s : State) : (dstStore b s).inputs = s.inputs := rfl
@[simp] theorem dstStore_response (b : Bytes) (s : State) : (dstStore b s).response = s.response := rfl
@[simp] theorem dstStore_freeIdx (b : Bytes) (s : State) : (dstStore b s).freeIdx = s.freeIdx := rfl

/-! ### issue -/

@[simp] theorem issue_regs (w : Word) (s : State) : (issue w s).regs = { s.regs with cmd := w, status := issueStatus s.regs.status } := rfl
@[simp] theorem issue_seq (w : Word) (s : State) : (issue w s).seq = .busy := rfl
@[simp] theorem issue_src (w : Word) (s : State) : (issue w s).src = s.src := rfl
@[simp] theorem issue_dst (w : Word) (s : State) : (issue w s).dst = s.dst := rfl
@[simp] theorem issue_faults (w : Word) (s : State) : (issue w s).faults = s.faults := rfl
@[simp] theorem issue_hostStopped (w : Word) (s : State) : (issue w s).hostStopped = s.hostStopped := rfl
@[simp] theorem issue_engineStopped (w : Word) (s : State) : (issue w s).engineStopped = s.engineStopped := rfl
@[simp] theorem issue_inputs (w : Word) (s : State) : (issue w s).inputs = s.inputs := rfl
@[simp] theorem issue_response (w : Word) (s : State) : (issue w s).response = s.response := rfl
@[simp] theorem issue_freeIdx (w : Word) (s : State) : (issue w s).freeIdx = s.freeIdx := rfl

/-! ### completeOk -/

@[simp] theorem completeOk_regs (k : Bool) (s : State) : (completeOk k s).regs = { s.regs with status := okStatus s.regs.status k } := rfl
@[simp] theorem completeOk_seq (k : Bool) (s : State) : (completeOk k s).seq = .idle := rfl
@[simp] theorem completeOk_src (k : Bool) (s : State) : (completeOk k s).src = s.src := rfl
@[simp] theorem completeOk_dst (k : Bool) (s : State) : (completeOk k s).dst = s.dst := rfl
@[simp] theorem completeOk_faults (k : Bool) (s : State) : (completeOk k s).faults = s.faults := rfl
@[simp] theorem completeOk_hostStopped (k : Bool) (s : State) : (completeOk k s).hostStopped = s.hostStopped := rfl
@[simp] theorem completeOk_engineStopped (k : Bool) (s : State) : (completeOk k s).engineStopped = s.engineStopped := rfl
@[simp] theorem completeOk_inputs (k : Bool) (s : State) : (completeOk k s).inputs = s.inputs := rfl
@[simp] theorem completeOk_response (k : Bool) (s : State) : (completeOk k s).response = s.response := rfl
@[simp] theorem completeOk_freeIdx (k : Bool) (s : State) : (completeOk k s).freeIdx = s.freeIdx := rfl

/-! ### wipeKey -/

@[simp] theorem wipeKey_regs (s : State) : (wipeKey s).regs = s.regs.wipeKey := rfl
@[simp] theorem wipeKey_seq (s : State) : (wipeKey s).seq = s.seq := rfl
@[simp] theorem wipeKey_src (s : State) : (wipeKey s).src = s.src := rfl
@[simp] theorem wipeKey_dst (s : State) : (wipeKey s).dst = s.dst := rfl
@[simp] theorem wipeKey_faults (s : State) : (wipeKey s).faults = s.faults := rfl
@[simp] theorem wipeKey_hostStopped (s : State) : (wipeKey s).hostStopped = s.hostStopped := rfl
@[simp] theorem wipeKey_engineStopped (s : State) : (wipeKey s).engineStopped = s.engineStopped := rfl
@[simp] theorem wipeKey_inputs (s : State) : (wipeKey s).inputs = s.inputs := rfl
@[simp] theorem wipeKey_response (s : State) : (wipeKey s).response = s.response := rfl
@[simp] theorem wipeKey_freeIdx (s : State) : (wipeKey s).freeIdx = s.freeIdx := rfl

/-! ### engineUnwrittenRead -/

@[simp] theorem engineUnwrittenRead_regs (s : State) : (engineUnwrittenRead s).regs = s.regs := rfl
@[simp] theorem engineUnwrittenRead_seq (s : State) : (engineUnwrittenRead s).seq = s.seq := rfl
@[simp] theorem engineUnwrittenRead_src (s : State) : (engineUnwrittenRead s).src = s.src := rfl
@[simp] theorem engineUnwrittenRead_dst (s : State) : (engineUnwrittenRead s).dst = s.dst := rfl
@[simp] theorem engineUnwrittenRead_faults (s : State) : (engineUnwrittenRead s).faults = { s.faults with unwrittenRead := true } := rfl
@[simp] theorem engineUnwrittenRead_hostStopped (s : State) : (engineUnwrittenRead s).hostStopped = s.hostStopped := rfl
@[simp] theorem engineUnwrittenRead_engineStopped (s : State) : (engineUnwrittenRead s).engineStopped = true := rfl
@[simp] theorem engineUnwrittenRead_inputs (s : State) : (engineUnwrittenRead s).inputs = s.inputs := rfl
@[simp] theorem engineUnwrittenRead_response (s : State) : (engineUnwrittenRead s).response = s.response := rfl
@[simp] theorem engineUnwrittenRead_freeIdx (s : State) : (engineUnwrittenRead s).freeIdx = s.freeIdx := rfl

/-! ### hostUnwrittenRead -/

@[simp] theorem hostUnwrittenRead_regs (s : State) : (hostUnwrittenRead s).regs = s.regs := rfl
@[simp] theorem hostUnwrittenRead_seq (s : State) : (hostUnwrittenRead s).seq = s.seq := rfl
@[simp] theorem hostUnwrittenRead_src (s : State) : (hostUnwrittenRead s).src = s.src := rfl
@[simp] theorem hostUnwrittenRead_dst (s : State) : (hostUnwrittenRead s).dst = s.dst := rfl
@[simp] theorem hostUnwrittenRead_faults (s : State) : (hostUnwrittenRead s).faults = { s.faults with unwrittenRead := true } := rfl
@[simp] theorem hostUnwrittenRead_hostStopped (s : State) : (hostUnwrittenRead s).hostStopped = true := rfl
@[simp] theorem hostUnwrittenRead_engineStopped (s : State) : (hostUnwrittenRead s).engineStopped = s.engineStopped := rfl
@[simp] theorem hostUnwrittenRead_inputs (s : State) : (hostUnwrittenRead s).inputs = s.inputs := rfl
@[simp] theorem hostUnwrittenRead_response (s : State) : (hostUnwrittenRead s).response = none := rfl
@[simp] theorem hostUnwrittenRead_freeIdx (s : State) : (hostUnwrittenRead s).freeIdx = s.freeIdx := rfl

/-! ### takeFree -/

@[simp] theorem takeFree_regs (n : Nat) (s : State) : (takeFree n s).regs = s.regs := rfl
@[simp] theorem takeFree_seq (n : Nat) (s : State) : (takeFree n s).seq = s.seq := rfl
@[simp] theorem takeFree_src (n : Nat) (s : State) : (takeFree n s).src = s.src := rfl
@[simp] theorem takeFree_dst (n : Nat) (s : State) : (takeFree n s).dst = s.dst := rfl
@[simp] theorem takeFree_faults (n : Nat) (s : State) : (takeFree n s).faults = s.faults := rfl
@[simp] theorem takeFree_hostStopped (n : Nat) (s : State) : (takeFree n s).hostStopped = s.hostStopped := rfl
@[simp] theorem takeFree_engineStopped (n : Nat) (s : State) : (takeFree n s).engineStopped = s.engineStopped := rfl
@[simp] theorem takeFree_inputs (n : Nat) (s : State) : (takeFree n s).inputs = s.inputs := rfl
@[simp] theorem takeFree_response (n : Nat) (s : State) : (takeFree n s).response = s.response := rfl
@[simp] theorem takeFree_freeIdx (n : Nat) (s : State) : (takeFree n s).freeIdx = s.freeIdx + n := rfl

/-! ### resetStep -/

@[simp] theorem resetStep_regs (s : State) : (resetStep s).regs = Regs.reset := rfl
@[simp] theorem resetStep_seq (s : State) : (resetStep s).seq = .idle := rfl
@[simp] theorem resetStep_src (s : State) : (resetStep s).src = s.src.cleared := rfl
@[simp] theorem resetStep_dst (s : State) : (resetStep s).dst = s.dst.cleared := rfl
@[simp] theorem resetStep_faults (s : State) : (resetStep s).faults = s.faults := rfl
@[simp] theorem resetStep_hostStopped (s : State) : (resetStep s).hostStopped = s.hostStopped := rfl
@[simp] theorem resetStep_engineStopped (s : State) : (resetStep s).engineStopped = s.engineStopped := rfl
@[simp] theorem resetStep_inputs (s : State) : (resetStep s).inputs = s.inputs := rfl
@[simp] theorem resetStep_response (s : State) : (resetStep s).response = s.response := rfl
@[simp] theorem resetStep_freeIdx (s : State) : (resetStep s).freeIdx = s.freeIdx := rfl

/-! ### answerData -/

@[simp] theorem answerData_regs (v : Word) (s : State) : (answerData v s).regs = s.regs := rfl
@[simp] theorem answerData_seq (v : Word) (s : State) : (answerData v s).seq = s.seq := rfl
@[simp] theorem answerData_src (v : Word) (s : State) : (answerData v s).src = s.src := rfl
@[simp] theorem answerData_dst (v : Word) (s : State) : (answerData v s).dst = s.dst := rfl
@[simp] theorem answerData_faults (v : Word) (s : State) : (answerData v s).faults = s.faults := rfl
@[simp] theorem answerData_hostStopped (v : Word) (s : State) : (answerData v s).hostStopped = s.hostStopped := rfl
@[simp] theorem answerData_engineStopped (v : Word) (s : State) : (answerData v s).engineStopped = s.engineStopped := rfl
@[simp] theorem answerData_inputs (v : Word) (s : State) : (answerData v s).inputs = s.inputs := rfl
@[simp] theorem answerData_response (v : Word) (s : State) : (answerData v s).response = some ⟨some v, false⟩ := rfl
@[simp] theorem answerData_freeIdx (v : Word) (s : State) : (answerData v s).freeIdx = s.freeIdx := rfl

/-! ### answerDone -/

@[simp] theorem answerDone_regs (s : State) : (answerDone s).regs = s.regs := rfl
@[simp] theorem answerDone_seq (s : State) : (answerDone s).seq = s.seq := rfl
@[simp] theorem answerDone_src (s : State) : (answerDone s).src = s.src := rfl
@[simp] theorem answerDone_dst (s : State) : (answerDone s).dst = s.dst := rfl
@[simp] theorem answerDone_faults (s : State) : (answerDone s).faults = s.faults := rfl
@[simp] theorem answerDone_hostStopped (s : State) : (answerDone s).hostStopped = s.hostStopped := rfl
@[simp] theorem answerDone_engineStopped (s : State) : (answerDone s).engineStopped = s.engineStopped := rfl
@[simp] theorem answerDone_inputs (s : State) : (answerDone s).inputs = s.inputs := rfl
@[simp] theorem answerDone_response (s : State) : (answerDone s).response = some ⟨none, false⟩ := rfl
@[simp] theorem answerDone_freeIdx (s : State) : (answerDone s).freeIdx = s.freeIdx := rfl

/-! ### srcWriteHazard -/

@[simp] theorem srcWriteHazard_regs (t : Transaction) (s : State) : (srcWriteHazard t s).regs = s.regs := rfl
@[simp] theorem srcWriteHazard_seq (t : Transaction) (s : State) : (srcWriteHazard t s).seq = s.seq := rfl
@[simp] theorem srcWriteHazard_src (t : Transaction) (s : State) : (srcWriteHazard t s).src = s.src.write t.offset.toNat (hazardBytes s.freeIdx t.width) := rfl
@[simp] theorem srcWriteHazard_dst (t : Transaction) (s : State) : (srcWriteHazard t s).dst = s.dst := rfl
@[simp] theorem srcWriteHazard_faults (t : Transaction) (s : State) : (srcWriteHazard t s).faults = { s.faults with srcWriteWhileBusy := true } := rfl
@[simp] theorem srcWriteHazard_hostStopped (t : Transaction) (s : State) : (srcWriteHazard t s).hostStopped = true := rfl
@[simp] theorem srcWriteHazard_engineStopped (t : Transaction) (s : State) : (srcWriteHazard t s).engineStopped = s.engineStopped := rfl
@[simp] theorem srcWriteHazard_inputs (t : Transaction) (s : State) : (srcWriteHazard t s).inputs = s.inputs := rfl
@[simp] theorem srcWriteHazard_response (t : Transaction) (s : State) : (srcWriteHazard t s).response = none := rfl
@[simp] theorem srcWriteHazard_freeIdx (t : Transaction) (s : State) : (srcWriteHazard t s).freeIdx = s.freeIdx + t.width := rfl

/-! ### srcWrite -/

@[simp] theorem srcWrite_regs (t : Transaction) (s : State) : (srcWrite t s).regs = s.regs := rfl
@[simp] theorem srcWrite_seq (t : Transaction) (s : State) : (srcWrite t s).seq = s.seq := rfl
@[simp] theorem srcWrite_src (t : Transaction) (s : State) : (srcWrite t s).src = s.src.write t.offset.toNat (busBytes t.width t.data) := rfl
@[simp] theorem srcWrite_dst (t : Transaction) (s : State) : (srcWrite t s).dst = s.dst := rfl
@[simp] theorem srcWrite_faults (t : Transaction) (s : State) : (srcWrite t s).faults = s.faults := rfl
@[simp] theorem srcWrite_hostStopped (t : Transaction) (s : State) : (srcWrite t s).hostStopped = s.hostStopped := rfl
@[simp] theorem srcWrite_engineStopped (t : Transaction) (s : State) : (srcWrite t s).engineStopped = s.engineStopped := rfl
@[simp] theorem srcWrite_inputs (t : Transaction) (s : State) : (srcWrite t s).inputs = s.inputs := rfl
@[simp] theorem srcWrite_response (t : Transaction) (s : State) : (srcWrite t s).response = some ⟨none, false⟩ := rfl
@[simp] theorem srcWrite_freeIdx (t : Transaction) (s : State) : (srcWrite t s).freeIdx = s.freeIdx := rfl

/-! ### errorCompletion, busError -/

@[simp] theorem errorCompletion_seq (e : CmdError) (s : State) : (errorCompletion e s).seq = .idle := rfl
@[simp] theorem errorCompletion_src (e : CmdError) (s : State) : (errorCompletion e s).src = s.src := by
  unfold errorCompletion errorClear; dsimp only; split <;> rfl
@[simp] theorem errorCompletion_dst (e : CmdError) (s : State) : (errorCompletion e s).dst = s.dst := by
  unfold errorCompletion errorClear; dsimp only; split <;> rfl
@[simp] theorem errorCompletion_faults (e : CmdError) (s : State) : (errorCompletion e s).faults = s.faults := by
  unfold errorCompletion errorClear; dsimp only; split <;> rfl
@[simp] theorem errorCompletion_hostStopped (e : CmdError) (s : State) : (errorCompletion e s).hostStopped = s.hostStopped := by
  unfold errorCompletion errorClear; dsimp only; split <;> rfl
@[simp] theorem errorCompletion_engineStopped (e : CmdError) (s : State) : (errorCompletion e s).engineStopped = s.engineStopped := by
  unfold errorCompletion errorClear; dsimp only; split <;> rfl
@[simp] theorem errorCompletion_inputs (e : CmdError) (s : State) : (errorCompletion e s).inputs = s.inputs := by
  unfold errorCompletion errorClear; dsimp only; split <;> rfl
@[simp] theorem errorCompletion_response (e : CmdError) (s : State) : (errorCompletion e s).response = s.response := by
  unfold errorCompletion errorClear; dsimp only; split <;> rfl
@[simp] theorem errorCompletion_freeIdx (e : CmdError) (s : State) : (errorCompletion e s).freeIdx = s.freeIdx := by
  unfold errorCompletion errorClear; dsimp only; split <;> rfl

/-- R280: the registers of an error completion. -/
theorem errorCompletion_regs (e : CmdError) (s : State) :
    (errorCompletion e s).regs =
      { (if usesKey s.regs.cmd then s.regs.wipeKey else s.regs) with
        outLen := 0, ctLen := 0, status := errorStatus s.regs.status e } := by
  unfold errorCompletion errorClear
  dsimp only
  split <;> rfl

@[simp] theorem errorCompletion_status (e : CmdError) (s : State) :
    (errorCompletion e s).regs.status = errorStatus s.regs.status e := by
  unfold errorCompletion errorClear; dsimp only; split <;> rfl

@[simp] theorem busError_regs (t : Transaction) (s : State) : (busError t s).regs = s.regs := by
  simp only [busError]; split <;> rfl
@[simp] theorem busError_seq (t : Transaction) (s : State) : (busError t s).seq = s.seq := by
  simp only [busError]; split <;> rfl
@[simp] theorem busError_src (t : Transaction) (s : State) : (busError t s).src = s.src := by
  simp only [busError]; split <;> rfl
@[simp] theorem busError_dst (t : Transaction) (s : State) : (busError t s).dst = s.dst := by
  simp only [busError]; split <;> rfl
@[simp] theorem busError_faults (t : Transaction) (s : State) : (busError t s).faults = s.faults := by
  simp only [busError]; split <;> rfl
@[simp] theorem busError_hostStopped (t : Transaction) (s : State) : (busError t s).hostStopped = s.hostStopped := by
  simp only [busError]; split <;> rfl
@[simp] theorem busError_engineStopped (t : Transaction) (s : State) : (busError t s).engineStopped = s.engineStopped := by
  simp only [busError]; split <;> rfl
@[simp] theorem busError_inputs (t : Transaction) (s : State) : (busError t s).inputs = s.inputs := by
  simp only [busError]; split <;> rfl
@[simp] theorem busError_freeIdx (t : Transaction) (s : State) : (busError t s).freeIdx = s.freeIdx := by
  simp only [busError]; split <;> rfl

end Sys2Proof.Machine
end

