-- ==== Sys2Proof/Laws/Words.lean ====
section
/-! SUPPORT. Byte sequences: lengths, little-endian words, and padding. -/

namespace Sys2Proof.Machine

@[simp] theorem zeros_length (n : Nat) : (zeros n).length = n := by simp [zeros]
@[simp] theorem le32_length (v : Word) : (le32 v).length = 4 := rfl
@[simp] theorem zeros_zero : zeros 0 = [] := rfl

theorem byteAt_append_left {b c : Bytes} {i : Nat} (h : i < b.length) : byteAt (b ++ c) i = byteAt b i := by
  simp [byteAt, List.getD_eq_getElem?_getD, List.getElem?_append_left h]

theorem byteAt_append_right {b c : Bytes} {i : Nat} (h : b.length ≤ i) :
    byteAt (b ++ c) i = byteAt c (i - b.length) := by
  simp [byteAt, List.getD_eq_getElem?_getD, List.getElem?_append_right h]

/-- A byte inside a sequence, as the list library spells it. -/
theorem getElem?_eq_byteAt {b : Bytes} {i : Nat} (h : i < b.length) : b[i]? = some (byteAt b i) := by
  simp [byteAt, List.getD_eq_getElem?_getD, List.getElem?_eq_getElem h]

/-- A word read at `o` depends on the four bytes there only. -/
theorem rdle32_congr {b c : Bytes} {o p : Nat} (h : ∀ k, k < 4 → byteAt b (o + k) = byteAt c (p + k)) :
    rdle32 b o = rdle32 c p := by
  have h0 := h 0 (by decide)
  have h1 := h 1 (by decide)
  have h2 := h 2 (by decide)
  have h3 := h 3 (by decide)
  simp only [Nat.add_zero] at h0
  simp only [rdle32, h0, h1, h2, h3]

theorem rdle32_le32 (v : Word) : rdle32 (le32 v) 0 = v := by
  apply BitVec.eq_of_getLsbD_eq
  intro i hi
  simp only [rdle32, byteAt, le32, List.getD_eq_getElem?_getD, Nat.zero_add, List.getElem?_cons_zero,
    List.getElem?_cons_succ, Option.getD_some, BitVec.getLsbD_or, BitVec.getLsbD_setWidth,
    BitVec.getLsbD_shiftLeft, BitVec.getLsbD_extractLsb']
  have : i < 8 ∨ (8 ≤ i ∧ i < 16) ∨ (16 ≤ i ∧ i < 24) ∨ (24 ≤ i ∧ i < 32) := by omega
  rcases this with h | ⟨h, h'⟩ | ⟨h, h'⟩ | ⟨h, h'⟩
  · simp [h, hi, show i < 16 by omega, show i < 24 by omega]
  · simp [h', hi, show ¬ i < 8 by omega, show i < 24 by omega, show i - 8 < 8 by omega,
      show i - 8 < 32 by omega, show 8 + (i - 8) = i by omega]
  · simp [h', hi, show ¬ i < 8 by omega, show ¬ i < 16 by omega, show i - 16 < 8 by omega,
      show ¬ i - 8 < 8 by omega, show i - 16 < 32 by omega, show 16 + (i - 16) = i by omega]
  · simp [hi, show ¬ i < 8 by omega, show ¬ i < 16 by omega, show ¬ i < 24 by omega,
      show i - 24 < 8 by omega, show ¬ i - 8 < 8 by omega, show ¬ i - 16 < 8 by omega,
      show i - 24 < 32 by omega, show 24 + (i - 24) = i by omega]

/-- Reading back a word that stands inside a longer sequence. -/
theorem rdle32_append_le32 (b c : Bytes) (v : Word) : rdle32 (b ++ (le32 v ++ c)) b.length = v := by
  conv_rhs => rw [← rdle32_le32 v]
  apply rdle32_congr
  intro k hk
  rw [byteAt_append_right (by omega), byteAt_append_left (by simp; omega)]
  simp

@[simp] theorem packHeader_length (h : Header) : (packHeader h).length = 36 := by simp [packHeader]

/-- `b[o:o+16)` of a sequence that holds 16 given bytes at `o`. -/
theorem block16At_append (b c : Bytes) (iv : Block16) : block16At (b ++ (iv.toList ++ c)) b.length = iv := by
  apply Vector.ext
  intro i hi
  simp only [block16At, Vector.getElem_ofFn]
  rw [byteAt_append_right (by omega), byteAt_append_left (by simp; omega)]
  simp [byteAt, List.getD_eq_getElem?_getD, hi]

theorem padLen_mod (n : Nat) : padLen n % 1024 = 0 := by
  simp only [padLen, pageSize]
  split <;> omega

theorem le_padLen (n : Nat) : n ≤ padLen n := by
  simp only [padLen, pageSize]
  split <;> omega

theorem padLen_lt (n : Nat) : padLen n < n + 1024 := by
  simp only [padLen, pageSize]
  split <;> omega

@[simp] theorem padBytes_length (b : Bytes) : (padBytes b).length = padLen b.length := by
  simp only [padBytes, padLen, pageSize]
  split <;> simp

/-- Every byte of a padded sequence. -/
theorem byteAt_padBytes (b : Bytes) (i : Nat) : byteAt (padBytes b) i = byteAt b i := by
  simp only [padBytes]
  split
  · rfl
  · by_cases h : i < b.length
    · exact byteAt_append_left h
    · rw [byteAt_append_right (by omega)]
      simp [byteAt, zeros, List.getD_eq_getElem?_getD, List.getElem?_replicate, List.getElem?_eq_none (by omega : b.length ≤ i)]
      split <;> rfl

end Sys2Proof.Machine
end

