-- ==== Sys2Proof/Laws/Commands.lean ====
section
/-! SUPPORT. What each command's completion can do, said once: the case it takes and the state it leaves. -/

namespace Sys2Proof.Machine

theorem srcLength_lt (s : State) : srcLength s < 2 ^ 32 := s.regs.srcLen.isLt

/-- A length that a 32-bit register can hold is held exactly. -/
theorem toWord_toNat {n : Nat} (h : n < 2 ^ 32) : (toWord n).toNat = n := by
  rw [toWord, BitVec.toNat_ofNat, Nat.mod_eq_of_lt h]

theorem srcBytes_length {n : Nat} {s : State} {q : Bytes} (h : srcBytes n s = some q) : q.length = n :=
  (Memory.read_eq_some.1 h).1

/-- The four ends of PAD (R156). -/
theorem padCompletion_cases (s : State) :
    (s.src.cap < srcLength s ∧ padCompletion s = errorCompletion .inputReadError s)
    ∨ (srcLength s ≤ s.src.cap ∧ s.dst.cap < padLen (srcLength s)
        ∧ padCompletion s = errorCompletion .outputWriteError s)
    ∨ (srcLength s ≤ s.src.cap ∧ padLen (srcLength s) ≤ s.dst.cap ∧ srcBytes (srcLength s) s = none
        ∧ padCompletion s = engineUnwrittenRead s)
    ∨ (∃ q, srcLength s ≤ s.src.cap ∧ padLen (srcLength s) ≤ s.dst.cap
        ∧ srcBytes (srcLength s) s = some q ∧ padCompletion s = padSuccess q s) := by
  unfold padCompletion
  dsimp only
  split
  · exact .inl ⟨by assumption, rfl⟩
  · split
    · exact .inr (.inl ⟨by omega, by assumption, rfl⟩)
    · split
      · exact .inr (.inr (.inl ⟨by omega, by omega, by assumption, rfl⟩))
      · exact .inr (.inr (.inr ⟨_, by omega, by omega, by assumption, rfl⟩))

/-- The three ends of CRC32 (R170). -/
theorem crc32Completion_cases (s : State) :
    (s.src.cap < srcLength s ∧ crc32Completion s = errorCompletion .inputReadError s)
    ∨ (srcLength s ≤ s.src.cap ∧ srcBytes (srcLength s) s = none ∧ crc32Completion s = engineUnwrittenRead s)
    ∨ (∃ q, srcLength s ≤ s.src.cap ∧ srcBytes (srcLength s) s = some q
        ∧ crc32Completion s = crc32Success q s) := by
  unfold crc32Completion
  dsimp only
  split
  · exact .inl ⟨by assumption, rfl⟩
  · split
    · exact .inr (.inl ⟨by omega, by assumption, rfl⟩)
    · exact .inr (.inr ⟨_, by omega, by assumption, rfl⟩)

/-- The five ends of CREATE (R200). -/
theorem createCompletion_cases (e : Cipher) (iv : Block16) (s : State) :
    (keyLenOk s.regs = false ∧ createCompletion e iv s = errorCompletion .invalidKeyLength s)
    ∨ (keyLenOk s.regs = true ∧ s.src.cap < srcLength s
        ∧ createCompletion e iv s = errorCompletion .inputReadError s)
    ∨ (keyLenOk s.regs = true ∧ srcLength s ≤ s.src.cap ∧ s.dst.cap < headerLen + padLen (srcLength s)
        ∧ createCompletion e iv s = errorCompletion .outputWriteError s)
    ∨ (keyLenOk s.regs = true ∧ srcLength s ≤ s.src.cap ∧ headerLen + padLen (srcLength s) ≤ s.dst.cap
        ∧ srcBytes (srcLength s) s = none ∧ createCompletion e iv s = engineUnwrittenRead s)
    ∨ (∃ q, keyLenOk s.regs = true ∧ srcLength s ≤ s.src.cap ∧ headerLen + padLen (srcLength s) ≤ s.dst.cap
        ∧ srcBytes (srcLength s) s = some q ∧ createCompletion e iv s = createSuccess e iv q s) := by
  unfold createCompletion
  dsimp only
  split
  · exact .inl ⟨by assumption, rfl⟩
  · rename_i hk
    have hk : keyLenOk s.regs = true := by simpa using hk
    split
    · exact .inr (.inl ⟨hk, by assumption, rfl⟩)
    · split
      · exact .inr (.inr (.inl ⟨hk, by omega, by assumption, rfl⟩))
      · split
        · exact .inr (.inr (.inr (.inl ⟨hk, by omega, by omega, by assumption, rfl⟩)))
        · exact .inr (.inr (.inr (.inr ⟨_, hk, by omega, by omega, by assumption, rfl⟩)))

/-- The ends of RECOVER before its header is parsed, and the case that goes on (R230). -/
theorem recoverCompletion_cases (e : Cipher) (s : State) :
    (keyLenOk s.regs = false ∧ recoverCompletion e s = errorCompletion .invalidKeyLength s)
    ∨ (keyLenOk s.regs = true ∧ s.src.cap < srcLength s
        ∧ recoverCompletion e s = errorCompletion .inputReadError s)
    ∨ (keyLenOk s.regs = true ∧ srcLength s ≤ s.src.cap ∧ srcLength s < headerLen
        ∧ recoverCompletion e s = errorCompletion .invalidHeader s)
    ∨ (keyLenOk s.regs = true ∧ srcLength s ≤ s.src.cap ∧ headerLen ≤ srcLength s
        ∧ s.src.read 0 headerLen = none ∧ recoverCompletion e s = engineUnwrittenRead s)
    ∨ (∃ b, keyLenOk s.regs = true ∧ srcLength s ≤ s.src.cap ∧ headerLen ≤ srcLength s
        ∧ s.src.read 0 headerLen = some b ∧ recoverCompletion e s = recoverBody e (parseHeader b) s) := by
  unfold recoverCompletion
  dsimp only
  split
  · exact .inl ⟨by assumption, rfl⟩
  · rename_i hk
    have hk : keyLenOk s.regs = true := by simpa using hk
    split
    · exact .inr (.inl ⟨hk, by assumption, rfl⟩)
    · split
      · exact .inr (.inr (.inl ⟨hk, by omega, by assumption, rfl⟩))
      · split
        · exact .inr (.inr (.inr (.inl ⟨hk, by omega, by omega, by assumption, rfl⟩)))
        · exact .inr (.inr (.inr (.inr ⟨_, hk, by omega, by omega, by assumption, rfl⟩)))

/-- The ends of RECOVER once its header is parsed (R230). -/
theorem recoverBody_cases (e : Cipher) (h : Header) (s : State) :
    (srcLength s - headerLen < frameNeed h ∧ recoverBody e h s = errorCompletion .truncatedContainer s)
    ∨ (frameNeed h ≤ srcLength s - headerLen ∧ s.dst.cap < frameNeed h
        ∧ recoverBody e h s = errorCompletion .outputWriteError s)
    ∨ (frameNeed h ≤ srcLength s - headerLen ∧ frameNeed h ≤ s.dst.cap
        ∧ s.src.read headerLen (frameNeed h) = none ∧ recoverBody e h s = engineUnwrittenRead s)
    ∨ (∃ ct, frameNeed h ≤ srcLength s - headerLen ∧ frameNeed h ≤ s.dst.cap
        ∧ s.src.read headerLen (frameNeed h) = some ct ∧ recoverBody e h s = recoverSuccess e h ct s) := by
  unfold recoverBody
  split
  · exact .inl ⟨by assumption, rfl⟩
  · split
    · exact .inr (.inl ⟨by omega, by assumption, rfl⟩)
    · split
      · exact .inr (.inr (.inl ⟨by omega, by omega, by assumption, rfl⟩))
      · exact .inr (.inr (.inr ⟨_, by omega, by omega, by assumption, rfl⟩))

theorem createFrame_length (e : Cipher) (r : Regs) (iv : Block16) (p : Bytes) :
    (createFrame e r iv p).length = 36 + p.length := by simp [createFrame]

/-- What every successful completion has in common: what it leaves alone, and what it stores and where. `b` is what
it stores to DST, `k` the integrity result. -/
structure Completed (i : Instr) (s t : State) : Prop where
  seq : t.seq = .idle
  src : t.src = s.src
  faults : t.faults = s.faults
  hostStopped : t.hostStopped = s.hostStopped
  engineStopped : t.engineStopped = s.engineStopped
  inputs : t.inputs = s.inputs
  response : t.response = s.response
  dst : t.dst = s.dst ∨ ∃ b : Bytes, b.length ≤ s.dst.cap ∧ t.regs.outLen = toWord b.length ∧ t.dst = s.dst.write 0 b
    ∧ (i = .create ∨ i = .recover ∨ i = .pad)
  status : ∃ k, t.regs.status = okStatus s.regs.status k
    ∧ (i ≠ .recover → k = false) ∧ (i = .recover → k = decide (t.regs.crcComputed = t.regs.crcStored))
  cmd : t.regs.cmd = s.regs.cmd
  srcLen : t.regs.srcLen = s.regs.srcLen

theorem nop_completed (s : State) : Completed .nop s (completeOk false s) :=
  ⟨rfl, rfl, rfl, rfl, rfl, rfl, rfl, .inl rfl, ⟨false, rfl, fun _ => rfl, fun h => by cases h⟩, rfl, rfl⟩

theorem padSuccess_completed {q : Bytes} {s : State} (h : padLen q.length ≤ s.dst.cap) :
    Completed .pad s (padSuccess q s) where
  seq := rfl
  src := rfl
  faults := rfl
  hostStopped := rfl
  engineStopped := rfl
  inputs := rfl
  response := rfl
  dst := .inr ⟨padBytes q, by simpa using h, by simp [padSuccess], rfl, .inr (.inr rfl)⟩
  status := ⟨false, rfl, fun _ => rfl, fun h => by cases h⟩
  cmd := rfl
  srcLen := rfl

theorem crc32Success_completed (q : Bytes) (s : State) : Completed .crc32 s (crc32Success q s) :=
  ⟨rfl, rfl, rfl, rfl, rfl, rfl, rfl, .inl rfl, ⟨false, rfl, fun _ => rfl, fun h => by cases h⟩, rfl, rfl⟩

theorem createSuccess_completed {e : Cipher} {iv : Block16} {q : Bytes} {s : State}
    (h : headerLen + padLen q.length ≤ s.dst.cap) : Completed .create s (createSuccess e iv q s) where
  seq := rfl
  src := rfl
  faults := rfl
  hostStopped := rfl
  engineStopped := rfl
  inputs := rfl
  response := rfl
  dst := .inr ⟨createFrame e s.regs iv (padBytes q), by simpa [createFrame_length] using h,
    by simp [createSuccess, createRegs, createFrame_length], rfl, .inl rfl⟩
  status := ⟨false, rfl, fun _ => rfl, fun h => by cases h⟩
  cmd := rfl
  srcLen := rfl

theorem recoverSuccess_completed {e : Cipher} {h : Header} {ct : Bytes} {s : State}
    (hlen : ct.length = frameNeed h) (hcap : frameNeed h ≤ s.dst.cap) :
    Completed .recover s (recoverSuccess e h ct s) where
  seq := rfl
  src := rfl
  faults := rfl
  hostStopped := rfl
  engineStopped := rfl
  inputs := rfl
  response := rfl
  dst := .inr ⟨decryptWith e (keyBytes s.regs) h.iv ct, by simpa [hlen] using hcap,
    by simp [recoverSuccess, recoverRegs, hlen], rfl, .inr (.inl rfl)⟩
  status := ⟨_, rfl, fun h => absurd rfl h, fun _ => rfl⟩
  cmd := rfl
  srcLen := rfl

/-- Every command answers a next state: an error completion, a recorded UnwrittenRead, or a successful completion. -/
theorem exec_cases (i : Instr) (s : State) : ∃ t, exec i s = .next t ∧
    ((∃ e, t = errorCompletion e s) ∨ t = engineUnwrittenRead s ∨ Completed i s t) := by
  cases i with
  | nop => exact ⟨_, rfl, .inr (.inr (nop_completed s))⟩
  | pad =>
    refine ⟨_, rfl, ?_⟩
    rcases padCompletion_cases s with ⟨_, h⟩ | ⟨_, _, h⟩ | ⟨_, _, _, h⟩ | ⟨q, _, hc, hq, h⟩
    · exact .inl ⟨_, h⟩
    · exact .inl ⟨_, h⟩
    · exact .inr (.inl h)
    · rw [h]
      exact .inr (.inr (padSuccess_completed (by rwa [srcBytes_length hq])))
  | crc32 =>
    refine ⟨_, rfl, ?_⟩
    rcases crc32Completion_cases s with ⟨_, h⟩ | ⟨_, _, h⟩ | ⟨q, _, _, h⟩
    · exact .inl ⟨_, h⟩
    · exact .inr (.inl h)
    · rw [h]
      exact .inr (.inr (crc32Success_completed q s))
  | create =>
    refine ⟨_, rfl, ?_⟩
    rcases createCompletion_cases Config.cipher (Config.ivDraw s.freeIdx) s with
      ⟨_, h⟩ | ⟨_, _, h⟩ | ⟨_, _, _, h⟩ | ⟨_, _, _, _, h⟩ | ⟨q, _, _, hc, hq, h⟩
    · exact .inl ⟨_, h⟩
    · exact .inl ⟨_, h⟩
    · exact .inl ⟨_, h⟩
    · exact .inr (.inl h)
    · rw [h]
      exact .inr (.inr (createSuccess_completed (by rwa [srcBytes_length hq])))
  | recover =>
    refine ⟨_, rfl, ?_⟩
    rcases recoverCompletion_cases Config.cipher s with
      ⟨_, h⟩ | ⟨_, _, h⟩ | ⟨_, _, _, h⟩ | ⟨_, _, _, _, h⟩ | ⟨b, _, _, _, _, h⟩
    · exact .inl ⟨_, h⟩
    · exact .inl ⟨_, h⟩
    · exact .inl ⟨_, h⟩
    · exact .inr (.inl h)
    · rw [h]
      rcases recoverBody_cases Config.cipher (parseHeader b) s with
        ⟨_, h⟩ | ⟨_, _, h⟩ | ⟨_, _, _, h⟩ | ⟨ct, _, hc, hr, h⟩
      · exact .inl ⟨_, h⟩
      · exact .inl ⟨_, h⟩
      · exact .inr (.inl h)
      · rw [h]
        exact .inr (.inr (recoverSuccess_completed (Memory.read_eq_some.1 hr).1 hc))

end Sys2Proof.Machine
end

