-- ==== Sys2Proof/Laws/HostPort.lean ====
section
/-! SUPPORT. The host port on the accesses of the host-script notation: which of them the block accepts, and what an
accepted one does. -/

namespace Sys2Proof.Machine

@[simp] theorem accessOk_hostWR (s : State) (n : RegName) (v : Word) : accessOk s (hostWR n v) = true := by
  cases n <;> simp [accessOk, regAccessOk, regSpaceSize, hostWR, RegName.offset]

@[simp] theorem accessOk_hostRD (s : State) (n : RegName) : accessOk s (hostRD n) = true := by
  cases n <;> simp [accessOk, regAccessOk, regSpaceSize, hostRD, RegName.offset]

theorem hostAccess_hostWR (s : State) (n : RegName) (v : Word) :
    hostAccess (hostWR n v) s = answerDone (regWrite n.offset.toNat v s) := by
  simp only [hostAccess, accessOk_hostWR]
  rfl

theorem hostAccess_hostRD (s : State) (n : RegName) :
    hostAccess (hostRD n) s = answerData (s.regs.hostRead n.offset.toNat) s := by
  simp only [hostAccess, accessOk_hostRD]
  rfl

theorem accessOk_hostSB {s : State} {a : Word} {b : Byte} (h : a.toNat < s.src.cap) :
    accessOk s (hostSB a b) = true := by
  simp [accessOk, hostSB, bufAccessOk, h]

theorem accessOk_hostSW {s : State} {a v : Word} (h4 : a.toNat % 4 = 0) (h : a.toNat + 3 < s.src.cap) :
    accessOk s (hostSW a v) = true := by
  simp [accessOk, hostSW, bufAccessOk, h4, h]

/-- R83: an accepted byte write while no command runs. -/
theorem hostAccess_hostSB {s : State} {a : Word} {b : Byte} (hs : s.seq = .idle) (h : a.toNat < s.src.cap) :
    hostAccess (hostSB a b) s = answerDone { s with src := s.src.write a.toNat [b] } := by
  have hb : busBytes 1 (b.setWidth 32) = [b] := by
    simp only [busBytes, le32, List.take]
    congr 1
    apply BitVec.eq_of_getLsbD_eq
    intro i hi
    simp [hi, show i < 32 by omega]
  simp only [hostAccess, accessOk_hostSB (b := b) h]
  simp [hostSB, hs, srcWrite, hb]

/-- R83: an accepted word write while no command runs. -/
theorem hostAccess_hostSW {s : State} {a v : Word} (hs : s.seq = .idle) (h4 : a.toNat % 4 = 0)
    (h : a.toNat + 3 < s.src.cap) :
    hostAccess (hostSW a v) s = answerDone { s with src := s.src.write a.toNat (le32 v) } := by
  have hb : busBytes 4 v = le32 v := rfl
  simp only [hostAccess, accessOk_hostSW h4 h]
  simp [hostSW, hs, srcWrite, hb]

/-- A read of STATUS returns it and changes nothing else. -/
theorem hostAccess_hostRD_status (s : State) : hostAccess (hostRD .status) s = answerData s.regs.status s :=
  hostAccess_hostRD s .status

/-- Everything a pass of POLL does: it answers STATUS, and it goes on exactly while BUSY reads 1. -/
theorem pollAccess_eq (n : Nat) (s : State) :
    pollAccess n s = { s with
      inputs := (if statusBusy s.regs.status then pollLoop n else []) ++ s.inputs
      response := some ⟨some s.regs.status, false⟩ } := by
  simp only [pollAccess, hostAccess_hostRD_status, answerData, pollTest]
  cases statusBusy s.regs.status <;> rfl

end Sys2Proof.Machine
end

