-- ==== Sys2Proof/Laws/PerInstr.lean ====
section
/-! SUPPORT. Statements made of each instruction as syntax: the word of an instruction decodes to it (R113, R114). -/

namespace Sys2Proof.Laws.RoundTrip

/-- An instruction is well formed and its word decodes to it. -/
def Statement (i : Instr) : Prop := i.wellFormed = true ∧ decode (encode i) = .ok i

theorem nop : Statement .nop := ⟨rfl, rfl⟩
theorem create : Statement .create := ⟨rfl, rfl⟩
theorem recover : Statement .recover := ⟨rfl, rfl⟩
theorem pad : Statement .pad := ⟨rfl, rfl⟩
theorem crc32 : Statement .crc32 := ⟨rfl, rfl⟩

end Sys2Proof.Laws.RoundTrip
end

