-- ==== Sys2Proof/Laws/Status.lean ====
section
/-! SUPPORT. The fields of a STATUS word after `writeStatus`, and that its reserved bits stay (R42). -/

namespace Sys2Proof.Machine

/-- The fields of a packed STATUS word, read back. -/
theorem packStatus_fields (b d e k : Bool) (c : BitVec 4) :
    statusBusy (packStatus b d e k c) = b ∧ statusDone (packStatus b d e k c) = d
      ∧ statusError (packStatus b d e k c) = e ∧ statusIntegrityOk (packStatus b d e k c) = k
      ∧ statusErrCode (packStatus b d e k c) = c ∧ packStatus b d e k c &&& statusReservedMask = 0#32 := by
  revert b d e k c
  decide +kernel

theorem writeStatus_bit (old : Word) (b d e k : Bool) (c : BitVec 4) {i : Nat}
    (h : statusReservedMask.getLsbD i = false) :
    (writeStatus old b d e k c).getLsbD i = (packStatus b d e k c).getLsbD i := by
  simp [writeStatus, h]

@[simp] theorem writeStatus_busy (old : Word) (b d e k : Bool) (c : BitVec 4) :
    statusBusy (writeStatus old b d e k c) = b := by
  rw [statusBusy, writeStatus_bit old b d e k c (by decide)]
  exact (packStatus_fields b d e k c).1

@[simp] theorem writeStatus_done (old : Word) (b d e k : Bool) (c : BitVec 4) :
    statusDone (writeStatus old b d e k c) = d := by
  rw [statusDone, writeStatus_bit old b d e k c (by decide)]
  exact (packStatus_fields b d e k c).2.1

@[simp] theorem writeStatus_error (old : Word) (b d e k : Bool) (c : BitVec 4) :
    statusError (writeStatus old b d e k c) = e := by
  rw [statusError, writeStatus_bit old b d e k c (by decide)]
  exact (packStatus_fields b d e k c).2.2.1

@[simp] theorem writeStatus_iok (old : Word) (b d e k : Bool) (c : BitVec 4) :
    statusIntegrityOk (writeStatus old b d e k c) = k := by
  rw [statusIntegrityOk, writeStatus_bit old b d e k c (by decide)]
  exact (packStatus_fields b d e k c).2.2.2.1

@[simp] theorem writeStatus_code (old : Word) (b d e k : Bool) (c : BitVec 4) :
    statusErrCode (writeStatus old b d e k c) = c := by
  conv_rhs => rw [← (packStatus_fields b d e k c).2.2.2.2.1]
  apply BitVec.eq_of_getLsbD_eq
  intro i hi
  simp only [statusErrCode, BitVec.getLsbD_extractLsb']
  rw [writeStatus_bit]
  have : i = 0 ∨ i = 1 ∨ i = 2 ∨ i = 3 := by omega
  rcases this with rfl | rfl | rfl | rfl <;> decide

@[simp] theorem writeStatus_reserved (old : Word) (b d e k : Bool) (c : BitVec 4) :
    writeStatus old b d e k c &&& statusReservedMask = old &&& statusReservedMask := by
  have h := (packStatus_fields b d e k c).2.2.2.2.2
  apply BitVec.eq_of_getLsbD_eq
  intro i hi
  have hi' := congrArg (fun w : Word => w.getLsbD i) h
  simp only [BitVec.getLsbD_and, BitVec.getLsbD_zero] at hi'
  simp only [writeStatus, BitVec.getLsbD_and, BitVec.getLsbD_or]
  cases hm : statusReservedMask.getLsbD i <;> simp_all

/-- The whole word, once its reserved bits are 0. -/
theorem writeStatus_eq_pack {old : Word} (h : old &&& statusReservedMask = 0#32) (b d e k : Bool) (c : BitVec 4) :
    writeStatus old b d e k c = packStatus b d e k c := by
  simp [writeStatus, h]

/-- R270: an error code is 1 to 6. -/
theorem CmdError.code_range (e : CmdError) : 1 ≤ e.code.toNat ∧ e.code.toNat ≤ 6 := by
  cases e <;> decide

end Sys2Proof.Machine
end

