-- ==== Sys2Proof/Laws/Step.lean ====
section
/-! SUPPORT. What one step can do, said once. -/

namespace Sys2Proof.Machine

/-- A host access leaves the block one of these ways. `s'` is the state after it. -/
inductive HostEffect (t : Transaction) (s s' : State) : Prop where
  /-- Nothing but the answer changed. -/
  | answered (r : Response) (h : s' = { s with response := some r })
  /-- R250: an issue. -/
  | issued (w : Word) (hw : t.dir = .write ∧ t.space = .reg ∧ t.offset.toNat = 0x08 ∧ t.data = w) (hs : s.seq = .idle)
      (h : s' = answerDone (issue w s))
  /-- R82: a register took a value. -/
  | stored (n : RegName) (hs : s.seq = .idle) (hd : t.dir = .write ∧ t.space = .reg) (hn : n.rights ≠ .ro ∧ n ≠ .cmd)
      (h : s' = answerDone { s with regs := s.regs.set n t.data })
  /-- R304. -/
  | unwritten (h : s' = hostUnwrittenRead s)
  /-- R83. -/
  | srcStored (hs : s.seq = .idle) (hd : t.dir = .write ∧ t.space = .src) (hok : bufAccessOk s.src t = true) (h : s' = srcWrite t s)
  /-- R311. -/
  | hazard (hs : s.seq = .busy) (hd : t.dir = .write ∧ t.space = .src) (hok : bufAccessOk s.src t = true) (h : s' = srcWriteHazard t s)

/-- The one place where the register map is split by offset. -/
theorem regAt_offset {o : Nat} {n : RegName} (h : regAt o = some n) : n.offset.toNat = o := by
  unfold regAt at h
  split at h <;> first | (cases h; rfl) | cases h

theorem regAt_of_offset (n : RegName) : regAt n.offset.toNat = some n := by cases n <;> rfl

theorem hazardBytes_length (i n : Nat) : (hazardBytes i n).length = n := by
  induction n generalizing i with
  | zero => rfl
  | succ n ih => simp [hazardBytes, ih]

/-- An accepted buffer access stays inside the buffer. -/
theorem bufAccess_le {m : Memory} {t : Transaction} (h : bufAccessOk m t = true) : t.offset.toNat + t.width ≤ m.cap := by
  simp only [bufAccessOk, decide_eq_true_eq] at h
  omega

/-- An accepted buffer write stores as many bytes as its width says. -/
theorem busBytes_length {m : Memory} {t : Transaction} (h : bufAccessOk m t = true) :
    (busBytes t.width t.data).length = t.width := by
  simp only [bufAccessOk, decide_eq_true_eq] at h
  rcases h with ⟨h, _⟩ | ⟨h, _⟩ <;> simp [busBytes, h]

/-- The step of a host access that is due. -/
theorem step_hostDue {s : State} {t : Transaction} {rest : List Input} (h : s.hostDue t rest) :
    step s = .next (hostAccess t { s with inputs := rest }) := by
  obtain ⟨hh, hi⟩ := h
  simp [step, hi, inputTurn, hostTurn, hh]

theorem bufRead_effect (m : Memory) (t : Transaction) (s : State) : HostEffect t s (bufRead m t s) := by
  simp only [bufRead]
  split
  · exact .answered _ rfl
  · exact .unwritten rfl

theorem hostAccess_effect (t : Transaction) (s : State) : HostEffect t s (hostAccess t s) := by
  obtain ⟨dir, space, off, width, data⟩ := t
  unfold hostAccess
  split
  · cases dir
    · exact .answered _ rfl
    · exact .answered _ rfl
  · rename_i hok
    have hok : accessOk s ⟨dir, space, off, width, data⟩ = true := by simpa using hok
    cases space <;> cases dir
    · -- a register write
      show HostEffect _ s (answerDone (regWrite off.toNat data s))
      unfold regWrite
      split
      · exact .answered _ rfl
      · rename_i hs
        split
        · exact .answered _ rfl
        · rename_i hr
          exact .issued data ⟨rfl, rfl, (regAt_offset hr).symm, rfl⟩ hs rfl
        · rename_i n hne hr
          split
          · exact .answered _ rfl
          · rename_i hro
            exact .stored n hs ⟨rfl, rfl⟩ ⟨hro, hne⟩ rfl
    · exact .answered _ rfl
    · show HostEffect _ s (match s.seq with | .busy => _ | .idle => _)
      split
      · rename_i hs
        exact .hazard hs ⟨rfl, rfl⟩ hok rfl
      · rename_i hs
        exact .srcStored hs ⟨rfl, rfl⟩ hok rfl
    · exact bufRead_effect _ _ _
    · exact bufRead_effect _ _ _
    · exact bufRead_effect _ _ _

/-- The ENGINE is due and has a step: `rest` are the inputs after it. -/
theorem step_engineDue {s : State} {rest : List Input} (h : s.engineDue rest) :
    step s = complete { s with inputs := rest } := by
  obtain ⟨hs, he, hi⟩ := h
  rcases hi with hi | ⟨hi, rfl⟩
  · simp [step, hi, inputTurn, engineTurn, hs, he]
  · have : { s with inputs := [] } = s := by
      rw [← hi]
    rw [this]
    simp [step, hi, engineTurn, hs, he]

/-- The step of a POLL that is due. -/
theorem step_poll {s : State} {n : Nat} {rest : List Input} (hh : s.hostStopped = false) (hi : s.inputs = .poll n :: rest) :
    step s = .next { s with
      inputs := (if statusBusy s.regs.status then pollLoop n else []) ++ rest
      response := some ⟨some s.regs.status, false⟩ } := by
  simp [step, hi, inputTurn, pollTurn, hh, pollAccess_eq]

/-- Everything a step that answers a next state can have done. -/
theorem step_cases {s s' : State} (h : step s = .next s') :
    (∃ t rest, s.inputs = .access t :: rest ∧ s.hostStopped = false ∧ HostEffect t { s with inputs := rest } s')
    ∨ (∃ n rest, s.inputs = .poll n :: rest ∧ s.hostStopped = false
        ∧ s' = { s with
            inputs := (if statusBusy s.regs.status then pollLoop n else []) ++ rest
            response := some ⟨some s.regs.status, false⟩ })
    ∨ (∃ rest, s.inputs = .reset :: rest ∧ s' = resetStep { s with inputs := rest })
    ∨ (∃ rest, s.engineDue rest ∧ complete { s with inputs := rest } = .next s')
    ∨ (s.seq = .idle ∧ ∃ rest, (s.inputs = .engine :: rest ∨ (s.inputs = [] ∧ rest = [])) ∧ s' = { s with inputs := rest }) := by
  unfold step at h
  split at h
  · rename_i hi
    unfold engineTurn at h
    split at h
    · rename_i hs
      cases h
      exact .inr (.inr (.inr (.inr ⟨hs, [], .inr ⟨hi, rfl⟩, by rw [← hi]⟩)))
    · rename_i hs
      split at h
      · cases h
      · rename_i he
        refine .inr (.inr (.inr (.inl ⟨[], ⟨hs, by simpa using he, .inr ⟨hi, rfl⟩⟩, ?_⟩)))
        rw [← h]
        congr 1
        rw [← hi]
  · rename_i i rest hi
    cases i with
    | access t =>
      simp only [inputTurn, hostTurn] at h
      split at h
      · cases h
      · rename_i hh
        cases h
        exact .inl ⟨t, rest, hi, by simpa using hh, hostAccess_effect t _⟩
    | poll n =>
      simp only [inputTurn, pollTurn] at h
      split at h
      · cases h
      · rename_i hh
        cases h
        exact .inr (.inl ⟨n, rest, hi, by simpa using hh, pollAccess_eq n _⟩)
    | reset =>
      cases h
      exact .inr (.inr (.inl ⟨rest, hi, rfl⟩))
    | engine =>
      simp only [inputTurn, engineTurn] at h
      split at h
      · rename_i hs
        cases h
        exact .inr (.inr (.inr (.inr ⟨hs, rest, .inl hi, rfl⟩)))
      · rename_i hs
        split at h
        · cases h
        · rename_i he
          exact .inr (.inr (.inr (.inl ⟨rest, ⟨hs, by simpa using he, .inl hi⟩, h⟩)))

/-- Everything a completion can have done: R251 with R254, R280 and R304. -/
theorem complete_cases (s : State) : ∃ t, complete s = .next t ∧
    ((∃ e, t = errorCompletion e s) ∨ t = engineUnwrittenRead s ∨ ∃ i, decode s.regs.cmd = .ok i ∧ Completed i s t) := by
  unfold complete
  split
  · rename_i i hi
    obtain ⟨t, ht, h⟩ := exec_cases i s
    refine ⟨t, ht, ?_⟩
    rcases h with h | h | h
    · exact .inl h
    · exact .inr (.inl h)
    · exact .inr (.inr ⟨i, hi, h⟩)
  · exact ⟨_, rfl, .inl ⟨_, rfl⟩⟩

/-- R304, R311: a stopped HOST stays stopped over every step. -/
theorem step_hostStopped {s s' : State} (h : step s = .next s') (hh : s.hostStopped = true) : s'.hostStopped = true := by
  obtain ⟨t, rest, _, hf, _⟩ | ⟨n, rest, _, hf, _⟩ | ⟨rest, _, rfl⟩ | ⟨rest, _, hc⟩ | ⟨_, rest, _, rfl⟩ := step_cases h
  · rw [hh] at hf; cases hf
  · rw [hh] at hf; cases hf
  · exact hh
  · obtain ⟨t, ht, he⟩ := complete_cases { s with inputs := rest }
    rw [hc] at ht
    cases ht
    obtain ⟨e, rfl⟩ | rfl | ⟨i, _, hd⟩ := he
    · simp only [errorCompletion, errorClear]
      split <;> exact hh
    · exact hh
    · exact hd.hostStopped.trans hh
  · exact hh

/-- The model's own runs are the host's. -/
theorem steps_eq_run (n : Nat) (s : State) : steps n s = Host.Core.run Sys2Proof.core n s := by
  induction n generalizing s with
  | zero => rfl
  | succ n ih =>
    cases h : step s with
    | next t =>
      have h' : Sys2Proof.core.step s = .next t := h
      have e : Host.Core.run Sys2Proof.core (n + 1) s = Host.Core.run Sys2Proof.core n t := by
        simp only [Host.Core.run, h']
      simp only [steps, h]
      exact (ih t).trans e.symm
    | fault r =>
      have h' : Sys2Proof.core.step s = .fault r := h
      have e : Host.Core.run Sys2Proof.core (n + 1) s = .fault r := by simp only [Host.Core.run, h']
      simp only [steps, h]
      exact e.symm
    | refused r =>
      have h' : Sys2Proof.core.step s = .refused r := h
      have e : Host.Core.run Sys2Proof.core (n + 1) s = .refused r := by simp only [Host.Core.run, h']
      simp only [steps, h]
      exact e.symm

end Sys2Proof.Machine
end

