-- ==== Sys2Proof/Tests/Slice0.lean ====
section
/-! SUPPORT. Checks of the model against the vectors of 95_test_vectors.md, and for every statement with hypotheses a
named concrete case that meets them. Expected values are the spec's, not the model's. -/

namespace Sys2Proof.Tests

open Sys2Proof.Machine

/-! ### Well-formedness: each check refuses an ill-formed term -/

theorem test_rsvd_nonzero_is_ill_formed :
    CmdW.rsvdIsZero ⟨0x1#4, 1#28⟩ = false ∧ CmdW.wellFormed ⟨0x1#4, 1#28⟩ = false
      ∧ CmdW.opcodeIsAssigned ⟨0x1#4, 1#28⟩ = true := by decide

theorem test_reserved_opcode_is_ill_formed :
    CmdW.opcodeIsAssigned ⟨0x5#4, 0#28⟩ = false ∧ CmdW.wellFormed ⟨0x5#4, 0#28⟩ = false
      ∧ CmdW.opcodeIsAssigned ⟨0x4#4, 0#28⟩ = true ∧ CmdW.wellFormed ⟨0xF#4, 0#28⟩ = false := by decide

theorem test_two_byte_access_is_ill_formed :
    Transaction.wellFormed ⟨.read, .src, 0#32, 2, 0#32⟩ = false
      ∧ Transaction.wellFormed ⟨.read, .src, 0#32, 4, 0#32⟩ = true := by decide

/-- A buffer whose cells are out of order, repeated or beyond its capacity is not in the canonical form. -/
theorem test_memory_form :
    ¬ Memory.wf ⟨4, [(1, 0#8), (0, 0#8)]⟩ ∧ ¬ Memory.wf ⟨4, [(1, 0#8), (1, 0#8)]⟩ ∧ ¬ Memory.wf ⟨4, [(4, 0#8)]⟩
      ∧ Memory.wf ⟨4, [(0, 0#8), (3, 0#8)]⟩ := by decide

/-! ### Decoding: the words of 30_encoding.md R113, written out bit by bit (RSVD in 31..4, OPCODE in 3..0) -/

theorem test_decode_nop : decode 0b0000000000000000000000000000_0000#32 = .ok .nop := by decide
theorem test_decode_create : decode 0b0000000000000000000000000000_0001#32 = .ok .create := by decide
theorem test_decode_recover : decode 0b0000000000000000000000000000_0010#32 = .ok .recover := by decide
theorem test_decode_pad : decode 0b0000000000000000000000000000_0011#32 = .ok .pad := by decide
theorem test_decode_crc32 : decode 0b0000000000000000000000000000_0100#32 = .ok .crc32 := by decide

/-- Command decode table of 95_test_vectors.md. -/
theorem test_decode_illegal :
    decode 0b0000000000000000000000000000_0101#32 = .error .reservedOpcode
      ∧ decode 0b0000000000000000000000000001_0001#32 = .error .rsvdNonzero
      ∧ decode 0b1000000000000000000000000000_0010#32 = .error .rsvdNonzero := by decide

theorem test_decode_table_word :
    decodeTableWord 32 0x2 = some .recover ∧ decodeTableWord 32 0x5 = none ∧ decodeTableWord 32 0x10 = none := by decide

theorem test_every_instruction_round_trips (i : Instr) : Laws.RoundTrip.Statement i := by
  cases i
  · exact Laws.RoundTrip.nop
  · exact Laws.RoundTrip.create
  · exact Laws.RoundTrip.recover
  · exact Laws.RoundTrip.pad
  · exact Laws.RoundTrip.crc32

/-! ### Sample data for the cipher TESTXOR: the draw IVA, the key K and states built from them -/

/-- IVA: the bytes A0 to AF. -/
def ivA : Block16 := Vector.ofFn fun i => BitVec.ofNat 8 (0xA0 + i.val)

/-- The registers after reset with the key K loaded (30_encoding.md R142), a source length and a command word. -/
def keyed (n cmd : Word) : Regs :=
  { Regs.reset with
    keyLen := 16#32
    key0 := 0x03020100#32
    key1 := 0x07060504#32
    key2 := 0x0B0A0908#32
    key3 := 0x0F0E0D0C#32
    srcLen := n
    cmd := cmd
    status := 1#32 }

/-- The registers after reset with a source length and a command word, a command running. -/
def plain (n cmd : Word) : Regs := { Regs.reset with srcLen := n, cmd := cmd, status := 1#32 }

/-- A state with these registers and buffers, FAULTS empty and no input to come. -/
def machine (q : Seq) (r : Regs) (src dst : Memory) : State where
  regs := r
  seq := q
  src := src
  dst := dst
  faults := Faults.empty
  hostStopped := false
  engineStopped := false
  inputs := []
  response := none
  freeIdx := 0

/-- A buffer of `cap` cells whose first cells hold these bytes. -/
def buffer (cap : Nat) (b : Bytes) : Memory := ⟨cap, cellsFrom 0 b⟩

/-- An idle block after reset with 4096-byte buffers and one host access to come. -/
def idleWith (t : Transaction) : State :=
  { machine .idle Regs.reset (buffer 4096 []) (buffer 4096 []) with inputs := [.access t] }

/-- A block running a CRC32 command, with 4096-byte buffers and one host access to come. -/
def busyWith (t : Transaction) : State :=
  { machine .busy (plain 0#32 4#32) (buffer 4096 []) (buffer 4096 []) with inputs := [.access t] }

/-- "123456789". -/
def digits : Bytes := [0x31#8, 0x32#8, 0x33#8, 0x34#8, 0x35#8, 0x36#8, 0x37#8, 0x38#8, 0x39#8]

/-- A check of the next state; false where there is none. -/
def next (o : Host.Outcome State Fault Refusal) (p : State → Bool) : Bool :=
  match o with
  | .next t    => p t
  | .fault _   => false
  | .refused _ => false

/-- The answer of the host port. -/
def answers (o : Host.Outcome State Fault Refusal) (r : Response) : Bool :=
  next o fun t => decide (t.response = some r)

/-! ### Frame, padding, checksum (HP1, HP2, PD1 to PD11, the CRC32 table) -/

/-- HP1. -/
theorem test_header_pack :
    packHeader ⟨1#32, 0x1234#32, 0x00010002#32, 1#32, ivA, 0x5B406F1C#32⟩
      = [0x01#8, 0x00#8, 0x00#8, 0x00#8, 0x34#8, 0x12#8, 0x00#8, 0x00#8, 0x02#8, 0x00#8, 0x01#8, 0x00#8]
        ++ [0x01#8, 0x00#8, 0x00#8, 0x00#8, 0xA0#8, 0xA1#8, 0xA2#8, 0xA3#8, 0xA4#8, 0xA5#8, 0xA6#8, 0xA7#8]
        ++ [0xA8#8, 0xA9#8, 0xAA#8, 0xAB#8, 0xAC#8, 0xAD#8, 0xAE#8, 0xAF#8, 0x1C#8, 0x6F#8, 0x40#8, 0x5B#8] := by
  decide +kernel

/-- HP2, parsed back with a tail. -/
theorem test_header_parse :
    parseHeader ([0xFF#8, 0xFF#8, 0xFF#8, 0xFF#8, 0x00#8, 0x00#8, 0x00#8, 0x00#8, 0x00#8, 0x00#8, 0x00#8, 0x80#8]
        ++ [0x00#8, 0x00#8, 0x40#8, 0x00#8] ++ zeros 16 ++ [0xEF#8, 0xBE#8, 0xAD#8, 0xDE#8] ++ [0x77#8])
      = ⟨0xFFFFFFFF#32, 0#32, 0x80000000#32, 0x00400000#32, Vector.replicate 16 0#8, 0xDEADBEEF#32⟩ := by
  decide +kernel

theorem test_padded_lengths :
    [0, 1, 4, 1023, 1024, 1025, 1500, 2048, 2049, 4096].map padLen
        = [0, 1024, 1024, 1024, 1024, 2048, 2048, 2048, 3072, 4096]
      ∧ [0, 1, 1024, 1025, 2049, 4096].map pages = [0, 1, 1, 2, 3, 4] := by decide

theorem test_checksums :
    crc32 [0x01#8] = 0xA505DF1B#32 ∧ crc32 [0xFF#8] = 0xFF000000#32
      ∧ crc32 [0x41#8, 0x42#8, 0x43#8, 0x44#8] = 0xDB1720A5#32 := by decide +kernel

theorem test_table_form_checksum : crc32Table digits = 0xCBF43926#32 := by decide +kernel

/-! ### The commands -/

/-- NC1. -/
theorem test_nop_status :
    next (step (machine .busy (plain 0#32 0#32) (buffer 4096 []) (buffer 4096 []))) (fun t =>
      decide (t.regs.status = 0x00000002#32 ∧ t.seq = .idle)) = true := by decide +kernel

/-- NC2: a NOP issued over STATUS 0xA leaves INTEGRITY_OK 0. -/
theorem test_nop_clears_integrity :
    next (step ((machine .idle { Regs.reset with status := 0xA#32 } (buffer 4096 []) (buffer 4096 [])).withFetchWord 32 0))
      (fun t => decide (t.regs.status = 0x00000002#32)) = true := by decide +kernel

/-- NC3: the key stays, OUT_LEN and CT_LEN go to 0. -/
theorem test_illegal_word :
    next (step (machine .busy { keyed 0#32 0x11#32 with outLen := 1060#32, ctLen := 1024#32 } (buffer 4096 []) (buffer 4096 [])))
      (fun t => decide (t.regs.status = 0x00000606#32 ∧ t.regs.keyLen = 16#32 ∧ t.regs.key3 = 0x0F0E0D0C#32
        ∧ t.regs.outLen = 0#32 ∧ t.regs.ctLen = 0#32)) = true := by decide +kernel

/-- PD2. -/
theorem test_pad_one_byte :
    next (execPad (machine .busy (plain 1#32 3#32) (buffer 4096 [0x61#8]) (buffer 4096 []))) (fun t =>
      decide (t.regs.status = 0x2#32 ∧ t.regs.outLen = 1024#32 ∧ t.regs.pageCount = 1#32 ∧ t.regs.ctLen = 0#32
        ∧ t.dst.get 0 = some 0x61#8 ∧ t.dst.get 1023 = some 0x00#8 ∧ t.dst.get 1024 = none)) = true := by decide +kernel

/-- PD14. -/
theorem test_pad_of_unwritten_cells :
    next (execPad (machine .busy (plain 4#32 3#32) (buffer 4096 []) (buffer 4096 []))) (fun t =>
      decide (t.faults = ⟨true, false⟩ ∧ t.seq = .busy ∧ t.regs.status = 0x1#32)) = true := by decide +kernel

/-- CC5. -/
theorem test_crc32_of_digits :
    next (execCrc32 (machine .busy { plain 9#32 4#32 with keyLen := 15#32 } (buffer 4096 digits) (buffer 4096 []))) (fun t =>
      decide (t.regs.status = 0x2#32 ∧ t.regs.crcComputed = 0xCBF43926#32 ∧ t.regs.keyLen = 15#32)) = true := by
  decide +kernel

/-- CC4. -/
theorem test_crc32_beyond_capacity :
    next (execCrc32 (machine .busy { plain 0x1001#32 4#32 with crcComputed := 7#32 } (buffer 4096 []) (buffer 4096 [])))
      (fun t => decide (t.regs.status = 0x206#32 ∧ t.regs.crcComputed = 7#32)) = true := by decide +kernel

/-- CR7: CREATE of an empty source with the key K and the draw IVA. -/
def emptyFrame : State :=
  createCompletion testXor ivA (machine .busy (keyed 0#32 1#32) (buffer 4096 []) (buffer 4096 []))

/-- CR7. -/
theorem test_create_of_nothing :
    emptyFrame.regs.status = 0x2#32 ∧ emptyFrame.regs.outLen = 36#32 ∧ emptyFrame.regs.ctLen = 0#32
      ∧ emptyFrame.regs.pageCount = 0#32 ∧ emptyFrame.regs.crcStored = 0#32 ∧ emptyFrame.regs.iv1 = 0xA7A6A5A4#32
      ∧ emptyFrame.regs.keyLen = 0#32 ∧ emptyFrame.regs.key0 = 0#32 ∧ emptyFrame.freeIdx = 1
      ∧ emptyFrame.dst.read 0 36
          = some ([0x01#8, 0x00#8, 0x00#8, 0x00#8] ++ zeros 12 ++ ivA.toList ++ [0x00#8, 0x00#8, 0x00#8, 0x00#8])
      ∧ emptyFrame.dst.get 36 = none := by decide +kernel

/-- P1: with K and IVA every ciphertext byte is the plaintext byte xor A0, and Decrypt gives the plaintext back. -/
theorem test_cipher_port :
    encryptWith testXor (keyBytes (keyed 9#32 1#32)) ivA digits
        = [0x91#8, 0x92#8, 0x93#8, 0x94#8, 0x95#8, 0x96#8, 0x97#8, 0x98#8, 0x99#8]
      ∧ decryptWith testXor (keyBytes (keyed 9#32 1#32)) ivA (List.replicate 17 0xA0#8) = zeros 17 := by
  decide +kernel

set_option maxRecDepth 20000 in
/-- P1: the checksum of the padded "123456789". -/
theorem test_padded_checksum : crc32 (padBytes digits) = 0x5B406F1C#32 := by decide +kernel

/-- CR4: 36 + 4096 does not fit. -/
theorem test_create_without_room :
    next (execCreate (machine .busy (keyed 4060#32 1#32) (buffer 4096 []) (buffer 4096 []))) (fun t =>
      decide (t.regs.status = 0x306#32 ∧ t.freeIdx = 0 ∧ t.regs.keyLen = 0#32)) = true := by decide +kernel

/-- RC8 and RC9: a frame of no pages under a stored checksum of 0, and of 0x12345678. -/
theorem test_recover_of_nothing :
    (recoverCompletion testXor (machine .busy (keyed 36#32 2#32) (buffer 4096 (zeros 36)) (buffer 4096 []))).regs.status
        = 0xA#32
      ∧ (fun t : State => t.regs.status = 0x2#32 ∧ t.regs.crcStored = 0x12345678#32 ∧ t.regs.crcComputed = 0#32
            ∧ t.regs.outLen = 0#32 ∧ t.regs.protocolVersion = 0#32)
          (recoverCompletion testXor (machine .busy (keyed 36#32 2#32)
            (buffer 4096 (zeros 32 ++ [0x78#8, 0x56#8, 0x34#8, 0x12#8])) (buffer 4096 []))) := by decide +kernel

/-- The 36 bytes of RC5: zeros but for a page count of 2^22. -/
def wrapHeader : Bytes := zeros 14 ++ [0x40#8] ++ zeros 21

/-- RC5: 2^22 pages are 2^32 bytes, and the product does not wrap. -/
theorem test_recover_does_not_wrap :
    next (execRecover (machine .busy (keyed 36#32 2#32) (buffer 4096 wrapHeader) (buffer 4096 []))) (fun t =>
      decide (t.regs.status = 0x506#32 ∧ t.regs.pageCount = 0#32 ∧ t.regs.protocolVersion = 1#32)) = true := by
  decide +kernel

/-! ### Host accesses, hazards and reset -/

/-- MA1, the write: byte 0 of the bus value lands at the lowest offset. -/
theorem test_word_write_is_little_endian :
    next (step (idleWith (hostSW 0#32 0x44434241#32))) (fun t =>
      decide (t.src.cells = [(0, 0x41#8), (1, 0x42#8), (2, 0x43#8), (3, 0x44#8)])) = true := by decide +kernel

/-- MA2, the read. -/
theorem test_word_read_is_little_endian :
    answers (step { idleWith (hostLW .src 4#32) with src := ⟨4096, [(4, 0x11#8), (5, 0x22#8), (6, 0x33#8), (7, 0x44#8)]⟩ })
      ⟨some 0x44332211#32, false⟩ = true := by decide +kernel

/-- MA3 to MA6, MA10. -/
theorem test_bus_errors :
    answers (step (idleWith (hostLW .src 2#32))) ⟨some 0#32, true⟩ = true
      ∧ answers (step (idleWith ⟨.write, .dst, 0#32, 1, 0x55#32⟩)) ⟨none, true⟩ = true
      ∧ answers (step (idleWith ⟨.read, .reg, 0x0C#32, 1, 0#32⟩)) ⟨some 0#32, true⟩ = true
      ∧ answers (step (idleWith ⟨.read, .reg, 0x0E#32, 4, 0#32⟩)) ⟨some 0#32, true⟩ = true
      ∧ answers (step (idleWith (hostSB 4096#32 1#8))) ⟨none, true⟩ = true := by decide +kernel

/-- MA7 to MA9 and the constant registers. -/
theorem test_register_reads :
    answers (step { idleWith (hostRD .key0) with regs := keyed 0#32 0#32 }) ⟨some 0#32, false⟩ = true
      ∧ answers (step (idleWith ⟨.read, .reg, 0x38#32, 4, 0#32⟩)) ⟨some 0#32, false⟩ = true
      ∧ answers (step (idleWith (hostRD .geometry))) ⟨some 0x00240400#32, false⟩ = true
      ∧ answers (step (idleWith (hostRD .cryptoGeometry))) ⟨some 0x00001010#32, false⟩ = true
      ∧ next (step (idleWith (hostWR .outLen 5#32))) (fun t => decide (t.regs.outLen = 0#32)) = true := by
  decide +kernel

/-- MA11. -/
theorem test_unwritten_host_read :
    next (step (idleWith (hostLB .dst 0#32))) (fun t =>
      decide (t.faults = ⟨true, false⟩ ∧ t.hostStopped = true ∧ t.response = none)) = true := by decide +kernel

/-- HZ1, HZ2, HZ5. -/
theorem test_register_accesses_while_busy :
    next (step (busyWith (hostWR .srcLen 7#32))) (fun t => decide (t.regs.srcLen = 0#32)) = true
      ∧ next (step (busyWith (hostWR .cmd 0#32))) (fun t => decide (t.regs.cmd = 4#32)) = true
      ∧ answers (step (busyWith (hostRD .status))) ⟨some 0x00000001#32, false⟩ = true := by decide +kernel

/-- HZ3. -/
theorem test_source_write_while_busy :
    next (step (busyWith (hostSB 0#32 1#8))) (fun t =>
      decide (t.faults = ⟨false, true⟩ ∧ t.hostStopped = true ∧ t.engineStopped = false)) = true := by decide +kernel

/-- HZ4. -/
theorem test_reset_while_busy :
    next (step { machine .busy (keyed 1#32 1#32) (buffer 4096 [0x61#8]) (buffer 4096 [0x61#8]) with inputs := [.reset] })
      (fun t => decide (t.regs = Regs.reset ∧ t.seq = .idle ∧ t.src = buffer 4096 [] ∧ t.dst = buffer 4096 []
        ∧ t.freeIdx = 0)) = true := by decide +kernel

/-- 30_encoding.md R142: a pass of POLL that reads BUSY = 1 goes back, one that reads 0 ends. -/
theorem test_poll_branches_on_busy :
    next (step { busyWith (hostRD .status) with inputs := hostPOLL 1 }) (fun t => decide (t.inputs = hostPOLL 0)) = true
      ∧ next (step { idleWith (hostRD .status) with inputs := hostPOLL 1 }) (fun t =>
        decide (t.inputs = [] ∧ t.response = some ⟨some 0#32, false⟩)) = true := by decide +kernel

/-- HZ6. -/
theorem test_stale_output_read :
    answers (step { busyWith (hostLB .dst 0#32) with dst := buffer 4096 [0x61#8] }) ⟨some 0x61#32, false⟩ = true := by
  decide +kernel

/-- Each row of the opcode table runs as the first command after reset: SRC_LEN and KEY_LEN are 0 then. -/
theorem test_first_command_after_reset :
    next (step (State.reset.withFetchWord 32 0)) (fun t => decide (t.regs.status = 0x2#32)) = true
      ∧ next (step (State.reset.withFetchWord 32 1)) (fun t => decide (t.regs.status = 0x106#32)) = true
      ∧ next (step (State.reset.withFetchWord 32 2)) (fun t => decide (t.regs.status = 0x106#32)) = true
      ∧ next (step (State.reset.withFetchWord 32 3)) (fun t => decide (t.regs.status = 0x2#32)) = true
      ∧ next (step (State.reset.withFetchWord 32 4)) (fun t => decide (t.regs.status = 0x2#32)) = true := by decide

theorem test_reset_buffers_are_in_canonical_form : State.reset.src.wf ∧ State.reset.dst.wf :=
  ⟨Memory.empty_wf Config.srcCap.isLt, Memory.empty_wf Config.dstCap.isLt⟩

/-! ### Witnesses: for every statement with hypotheses, concrete states and operands that meet all of them

Each is named after its statement. Where a statement has several clauses, each clause gets a case at a boundary of its
range. -/

theorem witness_ParserInvertsPacker : 36 ≤ (zeros 36).length := by decide

theorem witness_PackerInvertsParser : 36 ≤ (zeros 36).length := by decide

/-- The largest length whose padded length fits in 32 bits, and the next one. -/
theorem witness_PagesRoundUp :
    2 ^ 32 - 1 ≤ 2 ^ 32 - 1 ∧ padLen (2 ^ 32 - 1024) = 2 ^ 32 - 1024 ∧ padLen (2 ^ 32 - 1023) = 2 ^ 32
      ∧ pages (2 ^ 32 - 1) = 2 ^ 22 := by decide

/-- A running command and the reset input. -/
def resetWhileBusy : State :=
  { machine .busy (keyed 1#32 1#32) (buffer 1 [0x61#8]) (buffer 1060 [0x61#8]) with inputs := [.reset] }

theorem witness_ResetLeavesTheListedValues : resetWhileBusy.inputs = .reset :: [] := rfl

theorem witness_ResetDropsTheRunningCommand : resetWhileBusy.seq = .busy ∧ resetWhileBusy.inputs = [.reset] := ⟨rfl, rfl⟩

/-- A state in which the word `w` is running and the ENGINE is due. -/
def running (w : Word) : State := machine .busy (plain 0#32 w) (buffer 4096 []) (buffer 4096 [])

theorem witness_StepRunsTheDecodedCommand :
    (running 4#32).engineDue [] ∧ decode (running 4#32).regs.cmd = .ok .crc32
      ∧ { running 0#32 with inputs := [.engine, .reset] }.engineDue [.reset] :=
  ⟨⟨rfl, rfl, .inr ⟨rfl, rfl⟩⟩, rfl, ⟨rfl, rfl, .inl rfl⟩⟩

theorem witness_FetchWordRunsNext : decode (BitVec.ofNat 32 2) = .ok .recover := by decide

/-- A state of each of the kinds: the HOST stopped and due with an access or a POLL, the ENGINE stopped and due, no agent stopped. -/
theorem witness_StepStopsOnlyForAStoppedAgent :
    step { idleWith (hostRD .status) with hostStopped := true } = .fault .hostStopped
      ∧ step { idleWith (hostRD .status) with hostStopped := true, inputs := hostPOLL 0 } = .fault .hostStopped
      ∧ step { running 4#32 with engineStopped := true } = .fault .engineStopped
      ∧ ∃ t, step (running 4#32) = .next t := ⟨rfl, rfl, rfl, ⟨_, rfl⟩⟩

theorem witness_OneCompletionFollowsEachIssue : (running 0x11#32).engineDue [] := ⟨rfl, rfl, .inr ⟨rfl, rfl⟩⟩

/-- The states of these tests with a running command meet the invariant. -/
theorem running_inv {q : Word} (w : Word) (src dst : Memory) (inputs : List Input) (hs : src.wf) (hd : dst.wf) :
    State.Inv { machine .busy (plain q w) src dst with inputs := inputs } where
  status :=
    { busy_iff := ⟨fun _ => rfl, fun _ => (by decide : statusBusy 1#32 = true)⟩
      not_done := fun _ => (by decide : statusDone 1#32 = false)
      busy_clear := fun _ => (by decide : statusError 1#32 = false ∧ statusIntegrityOk 1#32 = false)
      no_code := fun _ => (by decide : statusErrCode 1#32 = 0#4)
      code_range := fun h => absurd h (by decide : ¬ statusError 1#32 = true)
      iok_ok := fun h => absurd h (by decide : ¬ statusIntegrityOk 1#32 = true)
      reserved := (by decide : 1#32 &&& statusReservedMask = 0#32) }
  faults := { empty_iff := ⟨fun _ => ⟨rfl, rfl⟩, fun _ => rfl⟩, engine := fun h => absurd h (by decide : ¬ false = true) }
  src := hs
  dst := hd

/-- A running CRC32 that is polled, one that finds its source unwritten, an idle block that is polled, and a RUN. -/
theorem witness_PolledCommandCompletes :
    let s := { running 4#32 with inputs := hostPOLL 2 }
    let f := { machine .busy (plain 1#32 4#32) (buffer 4096 []) (buffer 4096 []) with inputs := hostPOLL 0 }
    let e := { machine .idle Regs.reset (buffer 4096 []) (buffer 4096 []) with inputs := hostPOLL 1 }
    let r := { running 4#32 with inputs := script (List.replicate 2 (hostRD .status)) }
    (s.Inv ∧ s.seq = .busy ∧ s.hostStopped = false ∧ s.engineStopped = false ∧ s.inputs = hostPOLL 2 ++ []
        ∧ statusBusy s.regs.status = true)
      ∧ (∃ u, complete { s with inputs := hostPOLL 0 } = .next u ∧ u.engineStopped = false)
      ∧ (f.Inv ∧ f.seq = .busy ∧ f.hostStopped = false ∧ f.engineStopped = false ∧ f.inputs = hostPOLL 0 ++ [])
      ∧ (∃ u, complete f = .next u ∧ u.engineStopped = true)
      ∧ (e.hostStopped = false ∧ e.inputs = hostPOLL 1 ++ [] ∧ statusBusy e.regs.status = false)
      ∧ ({ e with inputs := hostRUN .pad 3 }.seq = .idle ∧ { e with inputs := hostRUN .pad 3 }.inputs = hostRUN .pad 3 ++ [])
      ∧ (r.seq = .busy ∧ decode r.regs.cmd = .ok .crc32 ∧ r.inputs = script (List.replicate 2 (hostRD .status))) :=
  ⟨⟨running_inv 4#32 _ _ _ (by decide) (by decide), rfl, rfl, rfl, rfl, rfl⟩, ⟨_, rfl, rfl⟩,
    ⟨running_inv 4#32 _ _ _ (by decide) (by decide), rfl, rfl, rfl, rfl⟩, ⟨_, rfl, rfl⟩, ⟨rfl, rfl, rfl⟩, ⟨rfl, rfl⟩,
    ⟨rfl, rfl, rfl⟩⟩

theorem witness_EveryStepKeepsTheInvariant : (running 4#32).Inv ∧ ∃ t, step (running 4#32) = .next t :=
  ⟨running_inv 4#32 _ _ [] (by decide) (by decide), ⟨_, rfl⟩⟩

/-- A step that records UnwrittenRead, by the ENGINE and by the HOST, and one that records SrcWriteWhileBusy. -/
theorem witness_FaultsAreNeverCleared :
    (∃ t, step (machine .busy (plain 1#32 3#32) (buffer 4096 []) (buffer 4096 [])) = .next t
        ∧ t.faults.unwrittenRead = true ∧ t.engineStopped = true)
      ∧ (∃ t, step (idleWith (hostLB .dst 0#32)) = .next t ∧ t.faults.unwrittenRead = true ∧ t.hostStopped = true)
      ∧ ∃ t, step (busyWith (hostSB 0#32 1#8)) = .next t ∧ t.faults.srcWriteWhileBusy = true :=
  ⟨⟨_, rfl, rfl, rfl⟩, ⟨_, rfl, rfl, rfl⟩, ⟨_, rfl, rfl⟩⟩

/-- An idle block whose last command ended in an error, with one input to come. -/
def errored (i : Input) : State :=
  { machine .idle { Regs.reset with status := 0x606#32 } (buffer 4096 []) (buffer 4096 []) with inputs := [i] }

theorem errored_inv (i : Input) : (errored i).Inv where
  status :=
    { busy_iff := ⟨fun h => absurd h (by decide : ¬ statusBusy 0x606#32 = true),
        fun h => absurd h (by decide : ¬ Seq.idle = .busy)⟩
      not_done := fun h => absurd h (by decide : ¬ Seq.idle = .busy)
      busy_clear := fun h => absurd h (by decide : ¬ Seq.idle = .busy)
      no_code := fun h => absurd h (by decide : ¬ statusError 0x606#32 = false)
      code_range := fun _ => (by decide : 1 ≤ (statusErrCode 0x606#32).toNat ∧ (statusErrCode 0x606#32).toNat ≤ 6)
      iok_ok := fun h => absurd h (by decide : ¬ statusIntegrityOk 0x606#32 = true)
      reserved := (by decide : 0x606#32 &&& statusReservedMask = 0#32) }
  faults := { empty_iff := ⟨fun _ => ⟨rfl, rfl⟩, fun _ => rfl⟩, engine := fun h => absurd h (by decide : ¬ false = true) }
  src := (by decide : Memory.wf ⟨4096, []⟩)
  dst := (by decide : Memory.wf ⟨4096, []⟩)

/-- The error goes away at an issue and at a reset. -/
theorem witness_ErrorStandsUntilIssueOrReset :
    (errored (.access (hostWR .cmd 0#32))).Inv ∧ (errored .reset).Inv
      ∧ statusError (errored .reset).regs.status = true
      ∧ (∃ t, step (errored (.access (hostWR .cmd 0#32))) = .next t ∧ statusError t.regs.status = false)
      ∧ ∃ t, step (errored .reset) = .next t ∧ statusError t.regs.status = false :=
  ⟨errored_inv _, errored_inv _, rfl, ⟨_, rfl, rfl⟩, ⟨_, rfl, rfl⟩⟩

/-- SRC changes by a host write, and by a reset. -/
theorem witness_OnlyTheHostWritesSrc :
    (∃ t, step (idleWith (hostSB 4095#32 1#8)) = .next t ∧ t.src.get 4095 = some 1#8)
      ∧ ∃ t, step resetWhileBusy = .next t ∧ t.src.get 0 = none := ⟨⟨_, rfl, rfl⟩, ⟨_, rfl, rfl⟩⟩

/-- A PAD of one byte over an empty DST. -/
def padOneByte : State := machine .busy (plain 1#32 3#32) (buffer 1 [0x61#8]) (buffer 1024 [])

theorem witness_OnlyASuccessfulCompletionWritesDst :
    padOneByte.Inv ∧ ∃ t, step padOneByte = .next t ∧ t.dst.get 0 = some 0x61#8 :=
  ⟨running_inv 3#32 _ _ [] (by decide) (by decide), ⟨_, rfl, by decide +kernel⟩⟩

theorem witness_IssueStartsACommand :
    (idleWith (hostWR .cmd 3#32)).hostDue (hostWR .cmd 3#32) [] ∧ (idleWith (hostWR .cmd 3#32)).seq = .idle
      ∧ (busyWith (hostWR .cmd 3#32)).hostDue (hostWR .cmd 3#32) [] ∧ (busyWith (hostWR .cmd 3#32)).seq = .busy :=
  ⟨⟨rfl, rfl⟩, rfl, ⟨rfl, rfl⟩, rfl⟩

/-- For each kind of access that is not accepted, one at the edge of what is: the first offset beyond the space, a word
over the end of a buffer, a byte access to REG, a write to DST. -/
theorem witness_UnacceptedAccessIsABusError :
    (∀ t, (idleWith t).hostDue t [])
      ∧ (∀ t ∈ ([⟨.write, .reg, 256#32, 4, 0#32⟩, ⟨.read, .reg, 252#32, 1, 0#32⟩, ⟨.read, .reg, 2#32, 4, 0#32⟩] : List Transaction),
          t.space = .reg ∧ ¬ (t.width = 4 ∧ t.offset.toNat % 4 = 0 ∧ t.offset.toNat < 256))
      ∧ (∀ t ∈ ([⟨.write, .src, 4096#32, 1, 0#32⟩, ⟨.read, .src, 4093#32, 4, 0#32⟩, ⟨.read, .src, 4096#32, 4, 0#32⟩] : List Transaction),
          t.space = .src ∧ ¬ (t.width = 1 ∧ t.offset.toNat < 4096)
            ∧ ¬ (t.width = 4 ∧ t.offset.toNat % 4 = 0 ∧ t.offset.toNat + 3 < 4096))
      ∧ (∀ t ∈ ([⟨.read, .dst, 4096#32, 1, 0#32⟩, ⟨.read, .dst, 0#32, 2, 0#32⟩] : List Transaction),
          t.space = .dst ∧ t.dir = .read ∧ ¬ (t.width = 1 ∧ t.offset.toNat < 4096)
            ∧ ¬ (t.width = 4 ∧ t.offset.toNat % 4 = 0 ∧ t.offset.toNat + 3 < 4096))
      ∧ ∀ t ∈ ([⟨.write, .dst, 0#32, 4, 0#32⟩] : List Transaction), t.space = .dst ∧ t.dir = .write :=
  ⟨fun _ => ⟨rfl, rfl⟩, by decide, by decide, by decide, by decide⟩

/-- The reserved offsets at the ends of their ranges. -/
theorem witness_RegisterReadsFollowTheMap :
    (idleWith (hostRD .key3)).hostDue (hostRD .key3) []
      ∧ (∀ o, (idleWith ⟨.read, .reg, o, 4, 0#32⟩).hostDue ⟨.read, .reg, o, 4, 0#32⟩ [])
      ∧ [0x60#32, 0xFC#32].all (fun o => decide (0x60 ≤ o.toNat ∧ o.toNat ≤ 0xFC ∧ o.toNat % 4 = 0)) = true :=
  ⟨⟨rfl, rfl⟩, fun _ => ⟨rfl, rfl⟩, by decide⟩

theorem witness_RegisterWritesFollowTheMap :
    (idleWith (hostWR .keyLen 5#32)).seq = .idle ∧ (idleWith (hostWR .keyLen 5#32)).hostDue (hostWR .keyLen 5#32) []
      ∧ (idleWith (hostWR .iv3 5#32)).hostDue (hostWR .iv3 5#32) []
      ∧ (idleWith ⟨.write, .reg, 0xFC#32, 4, 5#32⟩).hostDue ⟨.write, .reg, 0xFC#32, 4, 5#32⟩ [] :=
  ⟨rfl, ⟨rfl, rfl⟩, ⟨rfl, rfl⟩, ⟨rfl, rfl⟩⟩

theorem witness_RegistersHoldWhileBusy :
    (busyWith (hostWR .srcLen 7#32)).seq = .busy ∧ (busyWith (hostWR .srcLen 7#32)).hostDue (hostWR .srcLen 7#32) []
      ∧ (hostWR .srcLen 7#32).space = .reg ∧ (hostWR .srcLen 7#32).dir = .write
      ∧ (busyWith (hostRD .key0)).hostDue (hostRD .key0) [] := ⟨rfl, ⟨rfl, rfl⟩, rfl, rfl, ⟨rfl, rfl⟩⟩

/-- A read that returns a value, and one of a cell that holds none. -/
theorem witness_HostReadsChangeNothing :
    (hostRD .status).dir = .read ∧ (idleWith (hostRD .status)).hostDue (hostRD .status) []
      ∧ (idleWith (hostLB .dst 0#32)).hostDue (hostLB .dst 0#32) [] := ⟨rfl, ⟨rfl, rfl⟩, ⟨rfl, rfl⟩⟩

theorem witness_KeyBytesCannotBeReadBack :
    SameButKeyBytes (idleWith (hostRD .key0)).regs { Regs.reset with key0 := 0x03020100#32 }
      ∧ (idleWith (hostRD .key0)).hostDue (hostRD .key0) [] := ⟨rfl, ⟨rfl, rfl⟩⟩

/-- The last word and the last byte of SRC. -/
theorem witness_SrcWritesAreLittleEndian :
    (idleWith (hostSW 4092#32 1#32)).seq = .idle ∧ (idleWith (hostSW 4092#32 1#32)).hostDue (hostSW 4092#32 1#32) []
      ∧ (4092#32).toNat % 4 = 0 ∧ (4092#32).toNat + 3 < (idleWith (hostSW 4092#32 1#32)).src.cap
      ∧ (idleWith (hostSB 4095#32 1#8)).hostDue (hostSB 4095#32 1#8) []
      ∧ (4095#32).toNat < (idleWith (hostSB 4095#32 1#8)).src.cap :=
  ⟨rfl, ⟨rfl, rfl⟩, by decide, by decide, ⟨rfl, rfl⟩, by decide⟩

/-- DST with its last four cells written and the others not. -/
def lastWord : State :=
  { idleWith (hostLW .dst 4092#32) with dst := ⟨4096, [(4092, 0x11#8), (4093, 0x22#8), (4094, 0x33#8), (4095, 0x44#8)]⟩ }

/-- A word read and a byte read that return a value, a word read with one unwritten cell (4088 to 4090 hold a value, 4091
none), and a byte read of an unwritten cell. -/
theorem witness_BufferReadsAreLittleEndian :
    let gap := { idleWith (hostLW .dst 4088#32) with dst := ⟨4096, [(4088, 1#8), (4089, 2#8), (4090, 3#8)]⟩ }
    (lastWord.buffer .dst = some lastWord.dst ∧ lastWord.hostDue (hostLW .dst 4092#32) []
        ∧ (4092#32).toNat % 4 = 0 ∧ (4092#32).toNat + 3 < lastWord.dst.cap
        ∧ ∀ k, k < 4 → lastWord.dst.get ((4092#32).toNat + k) = some ((0x44332211#32).extractLsb' (8 * k) 8))
      ∧ ({ lastWord with inputs := [.access (hostLB .dst 4095#32)] }.hostDue (hostLB .dst 4095#32) []
        ∧ (4095#32).toNat < lastWord.dst.cap ∧ lastWord.dst.get (4095#32).toNat = some 0x44#8)
      ∧ (gap.buffer .dst = some gap.dst ∧ gap.hostDue (hostLW .dst 4088#32) [] ∧ (4088#32).toNat % 4 = 0
        ∧ (4088#32).toNat + 3 < gap.dst.cap ∧ gap.dst.get ((4088#32).toNat + 3) = none)
      ∧ ((idleWith (hostLB .src 4095#32)).buffer .src = some (buffer 4096 [])
        ∧ (idleWith (hostLB .src 4095#32)).hostDue (hostLB .src 4095#32) [] ∧ (buffer 4096 []).get (4095#32).toNat = none) :=
  ⟨⟨rfl, ⟨rfl, rfl⟩, by decide, by decide, by decide +kernel⟩, ⟨⟨rfl, rfl⟩, by decide, by decide +kernel⟩,
    ⟨rfl, ⟨rfl, rfl⟩, by decide, by decide, by decide +kernel⟩, ⟨rfl, ⟨rfl, rfl⟩, by decide +kernel⟩⟩

theorem witness_WordWriteIsFourByteWrites :
    (idleWith (hostRD .status)).seq = .idle ∧ (idleWith (hostRD .status)).hostStopped = false
      ∧ (4092#32).toNat % 4 = 0 ∧ (4092#32).toNat + 3 < (idleWith (hostRD .status)).src.cap :=
  ⟨rfl, rfl, by decide, by decide⟩

theorem witness_SrcWriteWhileBusyIsRecorded :
    (busyWith (hostSW 4092#32 1#32)).seq = .busy ∧ (busyWith (hostSW 4092#32 1#32)).hostDue (hostSW 4092#32 1#32) []
      ∧ (hostSW 4092#32 1#32).width = 4 ∧ (hostSW 4092#32 1#32).offset.toNat + 3 < 4096
      ∧ (busyWith (hostLB .src 4095#32)).hostDue (hostLB .src 4095#32) []
      ∧ (hostLB .src 4095#32).width = 1 ∧ (hostLB .src 4095#32).offset.toNat < 4096
      ∧ (∃ t v, step (busyWith (hostSW 4092#32 1#32)) = .next t
          ∧ steps 1 { t with inputs := [.reset, .access (hostRD .status)] } = .next v
          ∧ v.inputs = [.access (hostRD .status)])
      ∧ ∃ t v, step (busyWith (hostSW 4092#32 1#32)) = .next t
          ∧ steps 1 { t with inputs := .reset :: hostPOLL 2 } = .next v ∧ v.inputs = hostPOLL 2 :=
  ⟨rfl, ⟨rfl, rfl⟩, rfl, by decide, ⟨rfl, rfl⟩, rfl, by decide, ⟨_, _, rfl, rfl, rfl⟩, ⟨_, _, rfl, rfl, rfl⟩⟩

theorem witness_LdkeyLoadsTheKey :
    let s := { idleWith (hostRD .status) with inputs := script (hostLDKEY ivA) }
    s.seq = .idle ∧ s.hostStopped = false ∧ s.inputs = script (hostLDKEY ivA) ++ [] := ⟨rfl, rfl, rfl⟩

/-- Two bytes that end at the capacity. -/
theorem witness_LdsrcLoadsTheSource :
    let s := { idleWith (hostRD .status) with inputs := script (hostLDSRC 4094#32 [1#8, 2#8]) }
    s.seq = .idle ∧ s.hostStopped = false ∧ (4094#32).toNat + [1#8, 2#8].length ≤ s.src.cap ∧ s.src.cap < 2 ^ 32
      ∧ s.inputs = script (hostLDSRC 4094#32 [1#8, 2#8]) ++ [] := ⟨rfl, rfl, by decide, by decide, rfl⟩

/-- Both kinds of illegal word. -/
theorem witness_IllegalWordIsReported :
    (running 0x11#32).engineDue [] ∧ decode (running 0x11#32).regs.cmd = .error .rsvdNonzero
      ∧ (running 0x5#32).engineDue [] ∧ decode (running 0x5#32).regs.cmd = .error .reservedOpcode
      ∧ (running 0x5#32).regs.status &&& 0xFFFFF0F0#32 = 0#32 :=
  ⟨⟨rfl, rfl, .inr ⟨rfl, rfl⟩⟩, by decide, ⟨rfl, rfl, .inr ⟨rfl, rfl⟩⟩, by decide, by decide⟩

theorem witness_NopCompletesWithoutEffect : (running 0#32).regs.status &&& 0xFFFFF0F0#32 = 0#32 := by decide

/-- SRC_LEN equal to the capacity of SRC, and the padded length equal to the capacity of DST. -/
theorem witness_PadStoresThePaddedSource :
    padOneByte.regs.srcLen.toNat ≤ padOneByte.src.cap ∧ padLen padOneByte.regs.srcLen.toNat ≤ padOneByte.dst.cap
      ∧ padOneByte.dst.cap < 2 ^ 32 ∧ ∀ a, a < padOneByte.regs.srcLen.toNat → padOneByte.src.get a ≠ none := by
  decide +kernel

theorem witness_ChecksumCommandLeavesTheChecksum :
    padOneByte.regs.srcLen.toNat ≤ padOneByte.src.cap ∧ [0x61#8].length = padOneByte.regs.srcLen.toNat
      ∧ ∀ a, a < [0x61#8].length → padOneByte.src.get a = [0x61#8][a]? := by decide +kernel

/-- CREATE of one byte, with a DST that holds the frame exactly. -/
def createOneByte : State := machine .busy (keyed 1#32 1#32) (buffer 1 [0x61#8]) (buffer 1060 [])

theorem witness_CreateStoresTheFrame :
    createOneByte.regs.keyLen = 16#32 ∧ createOneByte.regs.srcLen.toNat ≤ createOneByte.src.cap
      ∧ 36 + padLen createOneByte.regs.srcLen.toNat ≤ createOneByte.dst.cap ∧ createOneByte.dst.cap < 2 ^ 32
      ∧ [0x61#8].length = createOneByte.regs.srcLen.toNat
      ∧ ∀ a, a < [0x61#8].length → createOneByte.src.get a = [0x61#8][a]? := by decide +kernel

/-- A 36-byte header that declares `p` pages, for p < 256. -/
def headerOf (p : Byte) : Bytes := zeros 12 ++ [p] ++ zeros 23

/-- RECOVER of a header that declares `p` pages followed by those pages, under the given capacity of DST. -/
def recoverOf (p : Byte) (dstCap : Nat) : State :=
  machine .busy (keyed (BitVec.ofNat 32 (36 + p.toNat * 1024)) 2#32)
    (buffer (36 + p.toNat * 1024) (headerOf p ++ zeros (p.toNat * 1024))) (buffer dstCap [])

/-- Reading a prefix of a buffer that was filled from offset 0. -/
theorem read_buffer (cap : Nat) (b c d : Bytes) :
    (buffer cap (b ++ c ++ d)).read b.length c.length = some c := by
  have h : buffer cap (b ++ c ++ d) = Memory.write ⟨cap, []⟩ 0 (b ++ c ++ d) := by simp [buffer, Memory.write]
  rw [h, Memory.read_eq_some]
  refine ⟨rfl, fun i hi => ?_⟩
  rw [Memory.get_write, if_pos ⟨by omega, by simp; omega⟩, List.append_assoc, Nat.sub_zero,
    List.getElem?_append_right (by omega), List.getElem?_append_left (by omega)]
  congr 1
  omega

theorem recoverOf_header (p : Byte) (n : Nat) : (recoverOf p n).src.read 0 36 = some (headerOf p) :=
  read_buffer _ [] (headerOf p) _

theorem recoverOf_pages (p : Byte) (n : Nat) :
    (recoverOf p n).src.read 36 (p.toNat * 1024) = some (zeros (p.toNat * 1024)) := by
  have h := read_buffer (36 + p.toNat * 1024) (headerOf p) (zeros (p.toNat * 1024)) []
  rw [List.append_nil, zeros_length] at h
  exact h

/-- A frame of one page whose pages fill DST, and a frame of none over a DST of no cells. -/
theorem witness_RecoverStoresThePlaintext :
    ∀ c ∈ [(1#8, 1024), (0#8, 0)], (recoverOf c.1 c.2).regs.keyLen = 16#32
      ∧ (recoverOf c.1 c.2).regs.srcLen.toNat ≤ (recoverOf c.1 c.2).src.cap
      ∧ 36 ≤ (recoverOf c.1 c.2).regs.srcLen.toNat ∧ (recoverOf c.1 c.2).src.read 0 36 = some (headerOf c.1)
      ∧ (rdle32 (headerOf c.1) 12).toNat * 1024 ≤ (recoverOf c.1 c.2).regs.srcLen.toNat - 36
      ∧ (rdle32 (headerOf c.1) 12).toNat * 1024 ≤ (recoverOf c.1 c.2).dst.cap
      ∧ (recoverOf c.1 c.2).src.read 36 ((rdle32 (headerOf c.1) 12).toNat * 1024) = some (zeros (c.1.toNat * 1024)) := by
  intro c hc
  have hn : (rdle32 (headerOf c.1) 12).toNat = c.1.toNat := by
    rcases List.mem_cons.1 hc with rfl | hc
    · decide +kernel
    · rcases List.mem_cons.1 hc with rfl | hc
      · decide +kernel
      · cases hc
  rw [hn]
  refine ⟨rfl, ?_, ?_, recoverOf_header c.1 c.2, ?_, ?_, recoverOf_pages c.1 c.2⟩ <;>
    (rcases List.mem_cons.1 hc with rfl | hc
     · decide
     · rcases List.mem_cons.1 hc with rfl | hc
       · decide
       · cases hc)

/-- The frame of an empty source, and a machine that holds it in SRC under the same key. -/
theorem witness_RecoverUndoesCreate :
    let s := machine .busy (keyed 0#32 1#32) (buffer 0 []) (buffer 36 [])
    let t := createCompletion testXor ivA s
    let u := machine .busy (keyed 36#32 2#32) t.dst (buffer 0 [])
    s.regs.keyLen = 16#32 ∧ s.regs.srcLen.toNat ≤ s.src.cap ∧ 36 + padLen s.regs.srcLen.toNat ≤ s.dst.cap
      ∧ s.dst.cap < 2 ^ 32 ∧ s.src.read 0 s.regs.srcLen.toNat = some [] ∧ u.regs.srcLen = t.regs.outLen
      ∧ (∀ a, a < t.regs.outLen.toNat → u.src.get a = t.dst.get a) ∧ t.regs.outLen.toNat ≤ u.src.cap
      ∧ padLen ([] : Bytes).length ≤ u.dst.cap ∧ u.regs.keyLen = 16#32 ∧ keyBytes u.regs = keyBytes s.regs := by
  decide +kernel

/-- The machine's own CREATE of an empty source into a DST of 36 cells. -/
def createNothing (inputs : List Input) : State :=
  { machine .busy (keyed 0#32 1#32) (buffer 0 []) (buffer 36 []) with inputs := inputs }

/-- Two draws that differ. -/
theorem witness_DrawsChangeOnlyIvAndCiphertext :
    createCompletion testXor ivA (createNothing []) ≠ createCompletion testXor (Vector.replicate 16 0#8) (createNothing []) := by
  decide +kernel

theorem witness_FrameLengthsAgree :
    (createNothing []).dst.cap < 2 ^ 32 ∧ (createNothing []).engineStopped = false
      ∧ ∃ t, exec .create (createNothing []) = .next t ∧ t.engineStopped = false ∧ statusError t.regs.status = false :=
  ⟨by decide, rfl, ⟨_, rfl, rfl, by decide +kernel⟩⟩

theorem witness_HeaderWordsReadBack :
    let s := createNothing [.access (hostLW .dst (BitVec.ofNat 32 (4 * 8)))]
    s.dst.cap < 2 ^ 32 ∧ s.engineStopped = false
      ∧ ∃ t, exec .create s = .next t ∧ t.engineStopped = false ∧ statusError t.regs.status = false
          ∧ t.hostDue (hostLW .dst (BitVec.ofNat 32 (4 * 8))) [] :=
  ⟨by decide, rfl, ⟨_, rfl, rfl, by decide +kernel, rfl, rfl⟩⟩

/-- One byte after the frame against three others, and another length. -/
theorem witness_TrailingBytesAreIgnored :
    let s := machine .busy (keyed 37#32 2#32) (buffer 64 (zeros 36 ++ [0xEE#8])) (buffer 0 [])
    let u := { s with src := buffer 64 (zeros 36 ++ [1#8, 2#8, 3#8]), regs := { s.regs with srcLen := 39#32 } }
    s.regs.keyLen = 16#32 ∧ s.regs.srcLen.toNat ≤ s.src.cap ∧ u.regs.srcLen.toNat ≤ u.src.cap
      ∧ s.src.read 0 36 = some (zeros 36)
      ∧ 36 + (rdle32 (zeros 36) 12).toNat * 1024 ≤ s.regs.srcLen.toNat
      ∧ 36 + (rdle32 (zeros 36) 12).toNat * 1024 ≤ u.regs.srcLen.toNat
      ∧ ∀ a, a < 36 + (rdle32 (zeros 36) 12).toNat * 1024 → u.src.get a = s.src.get a := by decide +kernel

/-- A key of 15 bytes. -/
theorem witness_WrongKeyLengthIsReportedFirst :
    let s (w : Word) := machine .busy { keyed 0#32 w with keyLen := 15#32 } (buffer 0 []) (buffer 0 [])
    (s 1#32).regs.keyLen ≠ 16#32 ∧ decode (s 1#32).regs.cmd = .ok .create ∧ decode (s 2#32).regs.cmd = .ok .recover := by
  decide +kernel

/-- SRC_LEN one above the capacity, for each of the four commands. -/
theorem witness_SourceBeyondCapacityIsReported :
    let s (w : Word) := machine .busy (keyed 4097#32 w) (buffer 4096 []) (buffer 0 [])
    (s 1#32).src.cap < (s 1#32).regs.srcLen.toNat ∧ (s 1#32).regs.keyLen = 16#32
      ∧ decode (s 1#32).regs.cmd = .ok .create ∧ decode (s 2#32).regs.cmd = .ok .recover
      ∧ decode (s 3#32).regs.cmd = .ok .pad ∧ decode (s 4#32).regs.cmd = .ok .crc32 := by decide +kernel

/-- A DST one byte too small, for CREATE, RECOVER and PAD. -/
theorem witness_OutputBeyondCapacityIsReported :
    let c := machine .busy (keyed 1#32 1#32) (buffer 1 []) (buffer 1059 [])
    let r := recoverOf 1#8 1023
    let q := machine .busy (plain 1#32 3#32) (buffer 1 []) (buffer 1023 [])
    (c.regs.srcLen.toNat ≤ c.src.cap ∧ decode c.regs.cmd = .ok .create ∧ c.regs.keyLen = 16#32
        ∧ c.dst.cap < 36 + padLen c.regs.srcLen.toNat)
      ∧ (r.regs.srcLen.toNat ≤ r.src.cap ∧ decode r.regs.cmd = .ok .recover ∧ r.regs.keyLen = 16#32
        ∧ r.src.read 0 36 = some (headerOf 1#8) ∧ 36 + (rdle32 (headerOf 1#8) 12).toNat * 1024 ≤ r.regs.srcLen.toNat
        ∧ r.dst.cap < (rdle32 (headerOf 1#8) 12).toNat * 1024)
      ∧ (q.regs.srcLen.toNat ≤ q.src.cap ∧ decode q.regs.cmd = .ok .pad ∧ q.dst.cap < padLen q.regs.srcLen.toNat) :=
  ⟨by decide +kernel, ⟨by decide +kernel, rfl, rfl, recoverOf_header 1#8 1023, by decide +kernel, by decide +kernel⟩,
    by decide +kernel⟩

/-- 35 bytes, and 36 bytes. -/
theorem witness_ShortContainerIsReported :
    let s (n : Word) := machine .busy (keyed n 2#32) (buffer 36 (zeros 36)) (buffer 0 [])
    (decode (s 35#32).regs.cmd = .ok .recover ∧ (s 35#32).regs.keyLen = 16#32
        ∧ (s 35#32).regs.srcLen.toNat ≤ (s 35#32).src.cap ∧ (s 35#32).regs.srcLen.toNat < 36)
      ∧ 36 ≤ (s 36#32).regs.srcLen.toNat ∧ (s 36#32).regs.srcLen.toNat ≤ (s 36#32).src.cap
      ∧ ∃ t, exec .recover (s 36#32) = .next t ∧ (s 36#32).engineStopped = false ∧ t.engineStopped = false :=
  ⟨by decide +kernel, by decide, by decide, ⟨_, rfl, rfl, rfl⟩⟩

/-- One page declared and no byte after the header; 2^22 pages declared (RC5). -/
theorem witness_TruncatedContainerIsReported :
    ∀ b ∈ [headerOf 1#8, wrapHeader],
      let s := machine .busy (keyed 36#32 2#32) (buffer 36 b) (buffer 0 [])
      decode s.regs.cmd = .ok .recover ∧ s.regs.keyLen = 16#32 ∧ 36 ≤ s.regs.srcLen.toNat
        ∧ s.regs.srcLen.toNat ≤ s.src.cap ∧ s.src.read 0 36 = some b
        ∧ s.regs.srcLen.toNat - 36 < (rdle32 b 12).toNat * 1024
        ∧ (b = wrapHeader → 0x00400000 ≤ (rdle32 b 12).toNat) := by decide +kernel

/-- The last byte of the source unwritten; the last byte of the header unwritten; the first byte after it unwritten. -/
theorem witness_UnwrittenSourceStopsTheEngine :
    let c := machine .busy (keyed 2#32 1#32) (buffer 2 [0x61#8]) (buffer 1060 [])
    let h := machine .busy (keyed 36#32 2#32) (buffer 36 (zeros 35)) (buffer 1024 [])
    let r := machine .busy (keyed 1060#32 2#32) (buffer 1060 (headerOf 1#8)) (buffer 1024 [])
    (c.regs.srcLen.toNat ≤ c.src.cap ∧ (1 < c.regs.srcLen.toNat ∧ c.src.get 1 = none) ∧ c.regs.keyLen = 16#32
        ∧ 36 + padLen c.regs.srcLen.toNat ≤ c.dst.cap ∧ padLen c.regs.srcLen.toNat ≤ c.dst.cap)
      ∧ (h.regs.srcLen.toNat ≤ h.src.cap ∧ h.regs.keyLen = 16#32 ∧ 36 ≤ h.regs.srcLen.toNat ∧ h.src.get 35 = none)
      ∧ (r.regs.srcLen.toNat ≤ r.src.cap ∧ r.regs.keyLen = 16#32 ∧ 36 ≤ r.regs.srcLen.toNat
        ∧ r.src.read 0 36 = some (headerOf 1#8) ∧ 36 + (rdle32 (headerOf 1#8) 12).toNat * 1024 ≤ r.regs.srcLen.toNat
        ∧ (rdle32 (headerOf 1#8) 12).toNat * 1024 ≤ r.dst.cap ∧ r.src.get 36 = none) := by decide +kernel

theorem witness_CommandsKeepSrcLenAndCmd : ∃ t, complete (running 4#32) = .next t := ⟨_, rfl⟩

/-- CREATE and RECOVER that fail, CREATE that succeeds, and PAD. -/
theorem witness_KeyIsWipedByCreateAndRecoverOnly :
    (running 1#32).engineStopped = false
      ∧ (∃ t, complete (running 1#32) = .next t ∧ t.engineStopped = false)
      ∧ (∃ t, complete (running 2#32) = .next t ∧ t.engineStopped = false)
      ∧ (∃ t, complete (createNothing []) = .next t ∧ t.engineStopped = false)
      ∧ (∃ t, complete (running 3#32) = .next t ∧ t.engineStopped = false)
      ∧ decode (running 1#32).regs.cmd = .ok .create ∧ decode (running 2#32).regs.cmd = .ok .recover
      ∧ decode (running 3#32).regs.cmd ≠ .ok .create ∧ decode (running 3#32).regs.cmd ≠ .ok .recover :=
  ⟨rfl, ⟨_, rfl, by decide +kernel⟩, ⟨_, rfl, by decide +kernel⟩, ⟨_, rfl, rfl⟩, ⟨_, rfl, by decide +kernel⟩, rfl, rfl,
    by decide, by decide⟩

theorem witness_SecondUseNeedsAFreshKey :
    (createNothing []).engineDue [] ∧ (createNothing []).hostStopped = false
      ∧ decode (createNothing []).regs.cmd = .ok .create
      ∧ ∃ t, step (createNothing []) = .next t ∧ t.engineStopped = false :=
  ⟨⟨rfl, rfl, .inr ⟨rfl, rfl⟩⟩, rfl, rfl, ⟨_, rfl, rfl⟩⟩

theorem witness_IntegrityOkIsRecoversResult :
    (recoverOf 0#8 0).engineStopped = false ∧ decode (recoverOf 0#8 0).regs.cmd = .ok .recover
      ∧ ∃ t, complete (recoverOf 0#8 0) = .next t ∧ t.engineStopped = false ∧ statusError t.regs.status = false :=
  ⟨rfl, rfl, ⟨_, rfl, rfl, by show statusError (okStatus _ _) = false; simp [okStatus]⟩⟩

/-- A CREATE that succeeds, and a PAD. -/
theorem witness_OnlyASuccessfulCreateDraws :
    (createNothing []).engineStopped = false
      ∧ (∃ t, complete (createNothing []) = .next t ∧ decode (createNothing []).regs.cmd = .ok .create
          ∧ t.engineStopped = false ∧ statusError t.regs.status = false)
      ∧ padOneByte.engineStopped = false ∧ (∃ t, complete padOneByte = .next t)
      ∧ decode padOneByte.regs.cmd ≠ .ok .create :=
  ⟨rfl, ⟨_, rfl, rfl, rfl, by decide +kernel⟩, rfl, ⟨_, rfl⟩, by decide⟩

/-- A state with another CT_LEN, STATUS and DST, none of which is an input of a command. -/
def withOtherOutputs (s : State) : State :=
  { s with regs := { s.regs with ctLen := 5#32, status := 7#32 }, dst := ⟨s.dst.cap, [(0, 9#8)]⟩ }

theorem sameCommandInputs_withOtherOutputs (s : State) : SameCommandInputs s (withOtherOutputs s) :=
  ⟨rfl, rfl, rfl, rfl, rfl, rfl, rfl, rfl, rfl, rfl, rfl, rfl, rfl⟩

theorem complete_answers (s : State) : ∃ t, complete s = .next t :=
  (complete_cases s).imp fun _ h => h.1

/-- A CRC32 of one byte. -/
def checksumOneByte : State := machine .busy (plain 1#32 4#32) (buffer 1 [0x61#8]) (buffer 0 [])

/-- Two states that agree on the inputs of the command and differ in an output register, in DST and in STATUS, for PAD,
CRC32, CREATE and RECOVER, each of which completes without error. -/
theorem witness_ResultDependsOnTheInputsOnly :
    (∀ s ∈ [padOneByte, checksumOneByte, createNothing [], recoverOf 0#8 4],
      SameCommandInputs s (withOtherOutputs s) ∧ s.engineStopped = false ∧ (withOtherOutputs s).engineStopped = false
        ∧ s.dst.cap < 2 ^ 32 ∧ ∃ v, complete (withOtherOutputs s) = .next v)
      ∧ (∃ t, complete padOneByte = .next t ∧ t.engineStopped = false ∧ statusError t.regs.status = false)
      ∧ (∃ t, complete checksumOneByte = .next t ∧ t.engineStopped = false ∧ statusError t.regs.status = false)
      ∧ (∃ t, complete (createNothing []) = .next t ∧ t.engineStopped = false ∧ statusError t.regs.status = false)
      ∧ ∃ t, complete (recoverOf 0#8 4) = .next t ∧ t.engineStopped = false ∧ statusError t.regs.status = false := by
  refine ⟨fun s hs => ⟨sameCommandInputs_withOtherOutputs s, ?_⟩, ⟨_, rfl, rfl, by decide +kernel⟩,
    ⟨_, rfl, rfl, by decide +kernel⟩, ⟨_, rfl, rfl, by decide +kernel⟩,
    ⟨_, rfl, rfl, by show statusError (okStatus _ _) = false; simp [okStatus]⟩⟩
  simp only [List.mem_cons, List.not_mem_nil, or_false] at hs
  rcases hs with rfl | rfl | rfl | rfl <;> exact ⟨rfl, rfl, by decide, complete_answers _⟩

end Sys2Proof.Tests
end

section
/-! Reset and the integrity result (10_state.md R40, R62, R303): the STATUS fields of each named STATUS word, what a
successful completion says in INTEGRITY_OK, the step of a reset, and the two statements that rest on them. -/

namespace Sys2Proof.Machine

/-! ### INTEGRITY_OK and ERROR in the named STATUS words -/

@[simp] theorem issueStatus_iok (old : Word) : statusIntegrityOk (issueStatus old) = false :=
  writeStatus_iok ..

@[simp] theorem okStatus_iok (old : Word) (k : Bool) : statusIntegrityOk (okStatus old k) = k :=
  writeStatus_iok ..

@[simp] theorem okStatus_error (old : Word) (k : Bool) : statusError (okStatus old k) = false :=
  writeStatus_error ..

@[simp] theorem errorStatus_iok (old : Word) (e : CmdError) : statusIntegrityOk (errorStatus old e) = false :=
  writeStatus_iok ..

@[simp] theorem errorStatus_error (old : Word) (e : CmdError) : statusError (errorStatus old e) = true :=
  writeStatus_error ..

/-! ### A successful completion -/

theorem Completed.error_eq_false {i : Instr} {s t : State} (h : Completed i s t) :
    statusError t.regs.status = false := by
  obtain ⟨k, hk, -, -⟩ := h.status
  rw [hk, okStatus_error]

/-- R40: only RECOVER passes an integrity result other than 0 to `complete_ok`. -/
theorem Completed.iok_iff {i : Instr} {s t : State} (h : Completed i s t) :
    statusIntegrityOk t.regs.status = true ↔ i = .recover ∧ t.regs.crcComputed = t.regs.crcStored := by
  obtain ⟨k, hk, hother, hrecover⟩ := h.status
  rw [hk, okStatus_iok]
  by_cases hi : i = .recover
  · simp [hi, hrecover hi]
  · simp [hi, hother hi]

/-- Settles O58, by the three ends a completion can have: an error completion writes 0, a recorded UnwrittenRead is no
completion, and a successful one writes the comparison of RECOVER. -/
theorem integrityOkIsRecoversResult : Obligations.IntegrityOkIsRecoversResult := by
  refine ⟨by decide, fun w s => issueStatus_iok s.regs.status, fun s t _ hst hrun => ?_⟩
  obtain ⟨t', ht', hends⟩ := complete_cases s
  obtain rfl : t = t' := Host.Outcome.next.inj (hst.symm.trans ht')
  obtain ⟨e, rfl⟩ | rfl | ⟨i, hi, hdone⟩ := hends
  · simp
  · simp at hrun
  · simp [hi, hdone.iok_iff, hdone.error_eq_false]

/-! ### Reset -/

/-- R62: GEOMETRY, CRYPTO_GEOMETRY and PROTOCOL_VERSION are the only registers whose value after a reset is not 0. -/
theorem Regs.reset_get_eq_zero {n : RegName} (hg : n ≠ .geometry) (hc : n ≠ .cryptoGeometry)
    (hp : n ≠ .protocolVersion) : Regs.reset.get n = 0x00000000#32 := by
  cases n with
  | geometry => exact absurd rfl hg
  | cryptoGeometry => exact absurd rfl hc
  | protocolVersion => exact absurd rfl hp
  | _ => rfl

/-- R300: the step of a reset that is the next input. It is due whatever runs and whatever has been stopped. -/
theorem step_reset {s : State} {rest : List Input} (h : s.inputs = .reset :: rest) :
    step s = .next (resetStep { s with inputs := rest }) := by
  simp [step, h, inputTurn]

/-- Settles O12: the reset step and the state at launch both hold `Regs.reset` and buffers without a listed cell. -/
theorem resetLeavesTheListedValues : Obligations.ResetLeavesTheListedValues := by
  constructor
  · intro s rest hin
    exact ⟨_, step_reset hin, rfl, rfl, rfl, fun _ => Regs.reset_get_eq_zero, rfl,
      s.src.cleared_get, s.dst.cleared_get, rfl, rfl, rfl, rfl⟩
  · exact ⟨rfl, fun _ => Regs.reset_get_eq_zero, rfl, Memory.get_empty _, Memory.get_empty _, rfl⟩

end Sys2Proof.Machine
end

section
/-! Reading DST back after a CREATE (20_memory.md R87, R89): words inside longer byte sequences, the part of a written
range that a later read takes, the host's word read of DST, and the words of a packed header. -/

namespace Sys2Proof.Machine

/-! ### Words and ranges inside a longer sequence -/

theorem rdle32_append_left {b c : Bytes} {o : Nat} (h : o + 4 ≤ b.length) : rdle32 (b ++ c) o = rdle32 b o :=
  rdle32_congr fun _ _ => byteAt_append_left (by omega)

theorem rdle32_append_right {b c : Bytes} {o : Nat} (h : b.length ≤ o) :
    rdle32 (b ++ c) o = rdle32 c (o - b.length) :=
  rdle32_congr fun k _ => by rw [byteAt_append_right (by omega), Nat.sub_add_comm h]

/-- A word in front of a sequence, and the sequence behind it. -/
theorem rdle32_le32_append (v : Word) (c : Bytes) : rdle32 (le32 v ++ c) 0 = v := by
  rw [rdle32_append_left (le32_length v).ge, rdle32_le32]

theorem rdle32_le32_append_of_le {v : Word} {c : Bytes} {o : Nat} (h : 4 ≤ o) :
    rdle32 (le32 v ++ c) o = rdle32 c (o - 4) :=
  rdle32_append_right h

/-- The bus value of the four bytes at `o` is the little-endian word there. -/
theorem busValue_take_drop (b : Bytes) (o : Nat) : busValue ((b.drop o).take 4) = rdle32 b o :=
  rdle32_congr fun k hk => by simp [byteAt, List.getD_eq_getElem?_getD, List.getElem?_take_of_lt hk]

/-- Reading back a part of what was written at offset 0. -/
theorem Memory.read_write_part (m : Memory) {b : Bytes} {a n : Nat} (h : a + n ≤ b.length) :
    (m.write 0 b).read a n = some ((b.drop a).take n) := by
  refine Memory.read_eq_some.2 ⟨by simp; omega, fun i hi => ?_⟩
  have hin : a + i < b.length := by omega
  simp [Memory.get_write, List.getElem?_take_of_lt hi, hin]

/-! ### The host's word read of DST -/

theorem accessOk_hostLW_dst {s : State} {a : Word} (h4 : a.toNat % 4 = 0) (h : a.toNat + 3 < s.dst.cap) :
    accessOk s (hostLW .dst a) = true := by
  simp [accessOk, hostLW, bufAccessOk, h4, h]

/-- R84: an accepted word read of four cells of DST that all hold a value. -/
theorem hostAccess_hostLW_dst {s : State} {a : Word} {b : Bytes} (h4 : a.toNat % 4 = 0)
    (h : a.toNat + 3 < s.dst.cap) (hb : s.dst.read a.toNat 4 = some b) :
    hostAccess (hostLW .dst a) s = answerData (busValue b) s := by
  simp only [hostAccess, accessOk_hostLW_dst h4 h]
  simp [hostLW, bufRead, hb]

/-! ### The words of a packed header -/

/-- R130: the nine words of a header, each with its number: word m stands at frame offset 4m. -/
def Header.words (h : Header) : List (Nat × Word) :=
  [(0, h.protocolVersion), (1, h.productId), (2, h.appVersion), (3, h.pageCount), (4, rdle32 h.iv.toList 0),
    (5, rdle32 h.iv.toList 4), (6, rdle32 h.iv.toList 8), (7, rdle32 h.iv.toList 12), (8, h.crc)]

theorem Header.word_number_le {h : Header} {m : Nat} {w : Word} (hw : (m, w) ∈ h.words) : m ≤ 8 := by
  simp only [Header.words, List.mem_cons, Prod.mk.injEq, List.not_mem_nil, or_false] at hw
  omega

/-- R132: `packHeader` puts word m at offset 4m; the lengths of the fields before it decide which field it meets. -/
theorem rdle32_packHeader {h : Header} {m : Nat} {w : Word} (hw : (m, w) ∈ h.words) :
    rdle32 (packHeader h) (4 * m) = w := by
  have hall : ∀ x ∈ h.words, rdle32 (packHeader h) (4 * x.1) = x.2 := by
    simp [Header.words, packHeader, rdle32_le32_append, rdle32_le32_append_of_le, rdle32_append_left,
      rdle32_append_right, rdle32_le32]
  exact hall (m, w) hw

/-! ### A CREATE that succeeded -/

/-- R200: a CREATE without error or fault passed all its checks, read SRC and ended in `createSuccess`. -/
theorem exec_create_succeeded {s t : State} (hst : exec .create s = .next t) (hrun : t.engineStopped = false)
    (herr : statusError t.regs.status = false) :
    ∃ q, keyLenOk s.regs = true ∧ srcLength s ≤ s.src.cap ∧ headerLen + padLen (srcLength s) ≤ s.dst.cap
      ∧ srcBytes (srcLength s) s = some q ∧ t = createSuccess Config.cipher (Config.ivDraw s.freeIdx) q s := by
  obtain rfl := Host.Outcome.next.inj hst
  obtain ⟨-, h⟩ | ⟨-, -, h⟩ | ⟨-, -, -, h⟩ | ⟨-, -, -, -, h⟩ | hdone :=
    createCompletion_cases Config.cipher (Config.ivDraw s.freeIdx) s
  · simp [h] at herr
  · simp [h] at herr
  · simp [h] at herr
  · simp [h] at hrun
  · exact hdone

/-- The header words of the frame CREATE stores are a range of DST afterwards. -/
theorem createSuccess_dst_read {e : Cipher} {iv : Block16} {q : Bytes} {s : State} {a : Nat} (h : a + 4 ≤ headerLen) :
    (createSuccess e iv q s).dst.read a 4
      = some (((createFrame e s.regs iv (padBytes q)).drop a).take 4) :=
  Memory.read_write_part s.dst (h.trans (by rw [createFrame_length]; exact Nat.le_add_right _ _))

/-- A word of the frame's header is the word of the header CREATE packs. -/
theorem rdle32_createFrame {e : Cipher} {r : Regs} {iv : Block16} {p : Bytes} {m : Nat} {w : Word}
    (hw : (m, w) ∈ (createHeader r iv p).words) : rdle32 (createFrame e r iv p) (4 * m) = w := by
  have hm : m ≤ 8 := Header.word_number_le hw
  rw [createFrame, rdle32_append_left (by rw [packHeader_length]; omega)]
  exact rdle32_packHeader hw

/-- Settles O47: CREATE stored the packed header, whose word m is the register named for it, and the host reads the four
cells at 4m, which are inside DST because the whole frame is. -/
theorem headerWordsReadBack : Obligations.HeaderWordsReadBack := by
  intro s t rest _ _ hst hrun herr m w hw hdue
  obtain ⟨q, -, -, hcap, -, rfl⟩ := exec_create_succeeded hst hrun herr
  have hword : (m, w) ∈ (createHeader s.regs (Config.ivDraw s.freeIdx) (padBytes q)).words := hw
  have hm : m ≤ 8 := Header.word_number_le hword
  have ha : (BitVec.ofNat 32 (4 * m)).toNat = 4 * m := toWord_toNat (by omega)
  have hin : 4 * m + 3 < s.dst.cap := by simp only [headerLen] at hcap; omega
  rw [step_hostDue hdue, hostAccess_hostLW_dst (by omega) (by rwa [ha])
    (by rw [ha]; exact createSuccess_dst_read (by simp only [headerLen]; omega)),
    busValue_take_drop, rdle32_createFrame hword]
  rfl

end Sys2Proof.Machine
end

section
/-! The encodings (30_encoding.md R110 to R115, R130 to R133): a command word and its two fields determine each other,
an OPCODE has an instruction exactly when it is below 5, and each field of a packed header is read back at its offset. -/

namespace Sys2Proof

/-! ### The fields of a command word -/

theorem CmdW.ofWord_toWord (c : CmdW) : CmdW.ofWord c.toWord = c := by
  rw [ofWord, toWord, BitVec.extractLsb'_append_eq_left, BitVec.extractLsb'_append_eq_right]

theorem CmdW.toWord_ofWord (w : Word) : (CmdW.ofWord w).toWord = w :=
  BitVec.extractLsb'_append_extractLsb' (w := 28) (len := 4)

/-- R110: a word has the fields `c` exactly when it is the word of `c`. -/
theorem CmdW.ofWord_eq_iff {w : Word} {c : CmdW} : CmdW.ofWord w = c ↔ w = c.toWord :=
  ⟨fun h => by rw [← h, toWord_ofWord], fun h => by rw [h, ofWord_toWord]⟩

/-! ### The opcode map -/

theorem Instr.fields_rsvd (i : Instr) : i.fields.rsvd = 0#28 := by
  cases i <;> rfl

theorem instrOfOpcode_eq_some {op : BitVec 4} {i : Instr} : instrOfOpcode op = some i ↔ op = i.fields.opcode := by
  cases i <;> decide +revert

theorem instrOfOpcode_eq_none {op : BitVec 4} : instrOfOpcode op = none ↔ 5 ≤ op.toNat := by
  decide +revert

/-! ### The decoder -/

/-- R114: a word decodes to `i` exactly when its RSVD is 0 and its OPCODE is assigned to `i`. -/
theorem decode_eq_ok_iff_fields {w : Word} {i : Instr} :
    decode w = .ok i ↔ (CmdW.ofWord w).rsvd = 0#28 ∧ instrOfOpcode (CmdW.ofWord w).opcode = some i := by
  unfold decode
  by_cases hr : (CmdW.ofWord w).rsvd = 0#28
  · cases instrOfOpcode (CmdW.ofWord w).opcode <;> simp [hr]
  · simp [hr]

/-- R110, R113: the one word that decodes to `i` is the word of its fields. -/
theorem decode_eq_ok_iff {w : Word} {i : Instr} : decode w = .ok i ↔ w = encode i := by
  rw [decode_eq_ok_iff_fields, instrOfOpcode_eq_some, ← Instr.fields_rsvd i, encode, ← CmdW.ofWord_eq_iff]
  cases CmdW.ofWord w
  cases i.fields
  simp [and_comm]

/-- R114, R115: the two ways a word is illegal. -/
theorem exists_decode_eq_error_iff {w : Word} :
    (∃ e, decode w = .error e) ↔ (CmdW.ofWord w).rsvd ≠ 0#28 ∨ 5 ≤ (CmdW.ofWord w).opcode.toNat := by
  rw [← instrOfOpcode_eq_none]
  unfold decode
  by_cases hr : (CmdW.ofWord w).rsvd = 0#28
  · cases instrOfOpcode (CmdW.ofWord w).opcode <;> simp [hr]
  · simp [hr]

/-- Settles O2: a word decodes to the instruction whose fields it has, the fields determine the word, and the OPCODEs
without an instruction are those from 5 on. -/
theorem decodeIsTheOpcodeMap : Obligations.DecodeIsTheOpcodeMap :=
  ⟨⟨rfl, rfl, rfl, rfl, rfl⟩, fun _ => ⟨fun _ => decode_eq_ok_iff, exists_decode_eq_error_iff⟩⟩

end Sys2Proof

namespace Sys2Proof.Machine

/-! ### Bytes of words and of blocks -/

/-- R13: byte k of the little-endian word at `o` is byte `o + k` of the sequence: a byte shifted lower ends below bit
8k, and a byte shifted higher begins above bit 8k + 7. -/
theorem rdle32_extractLsb' (b : Bytes) (o : Nat) {k : Nat} (hk : k < 4) :
    (rdle32 b o).extractLsb' (8 * k) 8 = byteAt b (o + k) := by
  have hcases : k = 0 ∨ k = 1 ∨ k = 2 ∨ k = 3 := by omega
  ext i hi
  rcases hcases with rfl | rfl | rfl | rfl <;>
    simp (disch := omega) [rdle32, hi, BitVec.getLsbD_of_ge, decide_eq_true, decide_eq_false]

theorem block16At_getElem (b : Bytes) (o : Nat) {i : Nat} (hi : i < 16) : (block16At b o)[i] = byteAt b (o + i) := by
  rw [block16At, Vector.getElem_ofFn]

theorem block16At_toList {b : Bytes} {o : Nat} (h : o + 16 ≤ b.length) :
    (block16At b o).toList = (b.drop o).take 16 := by
  apply List.ext_getElem
  · rw [Vector.length_toList, List.length_take, List.length_drop]
    omega
  · intro i hi _
    simp only [Vector.length_toList] at hi
    simp only [Vector.getElem_toList, block16At_getElem, List.getElem_take, List.getElem_drop]
    exact List.getD_eq_getElem _ _ (by omega)

/-! ### The header -/

/-- R130: the IV stands at offset 16 of a packed header, whatever follows it. -/
theorem block16At_packHeader (h : Header) (tail : Bytes) : block16At (packHeader h ++ tail) 16 = h.iv := by
  have hsplit : packHeader h ++ tail
      = (le32 h.protocolVersion ++ le32 h.productId ++ le32 h.appVersion ++ le32 h.pageCount)
        ++ (h.iv.toList ++ (le32 h.crc ++ tail)) := by
    simp [packHeader]
  rw [hsplit]
  exact block16At_append _ _ _

/-- R130: word m stands at offset 4m of a packed header, whatever follows it. -/
theorem rdle32_packHeader_append {h : Header} {m : Nat} {w : Word} (hw : (m, w) ∈ h.words) (tail : Bytes) :
    rdle32 (packHeader h ++ tail) (4 * m) = w := by
  have hm : m ≤ 8 := Header.word_number_le hw
  rw [rdle32_append_left (by rw [packHeader_length]; omega), rdle32_packHeader hw]

/-- R130, R132: byte k of word m of a header stands at offset 4m + k. -/
theorem packHeader_getElem?_word {h : Header} {m k : Nat} {w : Word} (hw : (m, w) ∈ h.words) (hk : k < 4) :
    (packHeader h)[4 * m + k]? = some (w.extractLsb' (8 * k) 8) := by
  have hm : m ≤ 8 := Header.word_number_le hw
  rw [getElem?_eq_byteAt (by rw [packHeader_length]; omega), ← rdle32_extractLsb' _ _ hk, rdle32_packHeader hw]

/-- R130, R132: IV byte i of a header stands at offset 16 + i. -/
theorem packHeader_getElem?_iv (h : Header) {i : Nat} (hi : i < 16) : (packHeader h)[16 + i]? = some h.iv[i] := by
  have hiv : block16At (packHeader h) 16 = h.iv := by
    simpa only [List.append_nil] using block16At_packHeader h []
  rw [getElem?_eq_byteAt (by rw [packHeader_length]; omega), ← block16At_getElem _ _ hi]
  simp only [hiv]

/-- R133: the parser gives a packed header back, whatever bytes follow it. -/
theorem parseHeader_packHeader (h : Header) (tail : Bytes) : parseHeader (packHeader h ++ tail) = h := by
  have hwords : ∀ x ∈ h.words, rdle32 (packHeader h ++ tail) (4 * x.1) = x.2 :=
    fun _ hx => rdle32_packHeader_append hx tail
  simp only [Header.words, List.forall_mem_cons] at hwords
  obtain ⟨hprotocol, hproduct, happ, hpages, -, -, -, -, hcrc, -⟩ := hwords
  simp only [parseHeader, block16At_packHeader, hprotocol, hproduct, happ, hpages, hcrc]

/-- Settles O3: a packed header parses to itself, and each parsed field is by definition the word at its offset, the IV the
16 bytes at offset 16. -/
theorem parserInvertsPacker : Obligations.ParserInvertsPacker :=
  ⟨parseHeader_packHeader, fun _ hb => ⟨rfl, rfl, rfl, rfl, block16At_toList (by omega), rfl⟩⟩

/-- Settles O5: the five 32-bit fields are words 0, 1, 2, 3 and 8 of the header, and the IV stands at offset 16. -/
theorem packedHeaderLayout : Obligations.PackedHeaderLayout := by
  intro h
  refine ⟨packHeader_length h, fun k hk => ?_, fun _ hi => packHeader_getElem?_iv h hi⟩
  have hwords : ∀ x ∈ h.words, (packHeader h)[4 * x.1 + k]? = some (x.2.extractLsb' (8 * k) 8) :=
    fun _ hx => packHeader_getElem?_word hx hk
  simp only [Header.words, List.forall_mem_cons, Nat.mul_zero, Nat.zero_add] at hwords
  obtain ⟨hprotocol, hproduct, happ, hpages, -, -, -, -, hcrc, -⟩ := hwords
  exact ⟨hprotocol, hproduct, happ, hpages, hcrc⟩

end Sys2Proof.Machine
end

section
/-! The padding function (40_padding.md R150 to R152): a padded sequence keeps its input in front, holds 0x00 behind it,
and is the input itself exactly when that ends on a page boundary. -/

namespace Sys2Proof.Machine

/-- A byte behind the end of a sequence reads as 0x00, the value of the padding. -/
theorem byteAt_of_length_le {b : Bytes} {i : Nat} (h : b.length ≤ i) : byteAt b i = 0x00#8 :=
  List.getD_eq_default _ _ h

/-- R150: padding only appends. -/
theorem prefix_padBytes (b : Bytes) : b <+: padBytes b := by
  unfold padBytes
  split
  · exact List.prefix_rfl
  · exact List.prefix_append _ _

/-- R151: the padding consists of zeros. -/
theorem padBytes_getElem?_of_length_le {b : Bytes} {i : Nat} (hlo : b.length ≤ i) (hhi : i < (padBytes b).length) :
    (padBytes b)[i]? = some 0x00#8 := by
  rw [getElem?_eq_byteAt hhi, byteAt_padBytes, byteAt_of_length_le hlo]

theorem padBytes_length_mod (b : Bytes) : (padBytes b).length % 1024 = 0 := by
  rw [padBytes_length, padLen_mod]

/-- R151: a sequence that padding leaves as it is has the length of a padded one. -/
theorem padBytes_eq_self_iff {b : Bytes} : padBytes b = b ↔ b.length % 1024 = 0 := by
  constructor
  · intro h
    rw [← h, padBytes_length_mod]
  · intro h
    exact if_pos h

/-- Settles O6: the bounds are those of `padLen`, the input is a prefix, and the rest are the appended zeros. -/
theorem paddingHasItsFiveProperties : Obligations.PaddingHasItsFiveProperties := by
  intro b
  have hlt : (padBytes b).length < b.length + 1024 := by
    rw [padBytes_length]
    exact padLen_lt b.length
  exact ⟨padBytes_length_mod b, (prefix_padBytes b).length_le, Nat.le_of_lt_succ hlt,
    (List.prefix_iff_eq_take.1 (prefix_padBytes b)).symm, fun _ => padBytes_getElem?_of_length_le,
    padBytes_eq_self_iff⟩

/-- Settles O7: a padded sequence ends on a page boundary, where padding is the identity. -/
theorem paddingIsIdempotent : Obligations.PaddingIsIdempotent :=
  fun b => padBytes_eq_self_iff.2 (padBytes_length_mod b)

end Sys2Proof.Machine
end

section
/-! The checksum (41_crc32.md R166 to R169): the inner loop is linear for exclusive or, and a word whose low bits are 0
passes through it as a shift; from the two, one look-up in the table does the work of eight passes. -/

namespace Sys2Proof.Machine

/-! ### The inner loop -/

/-- R167: one pass of the inner loop is linear; the polynomial of two odd words cancels. -/
theorem crcBit_xor (a b : Word) : crcBit (a ^^^ b) = crcBit a ^^^ crcBit b := by
  have hcancel : a >>> 1 ^^^ b >>> 1 = (a >>> 1 ^^^ crcPoly) ^^^ (b >>> 1 ^^^ crcPoly) := by
    rw [BitVec.xor_comm (b >>> 1), ← BitVec.xor_assoc, BitVec.xor_assoc (a >>> 1), BitVec.xor_self, BitVec.xor_zero]
  simp only [crcBit, BitVec.getLsbD_xor, BitVec.ushiftRight_xor_distrib]
  cases a.getLsbD 0 <;> cases b.getLsbD 0
  · rfl
  · exact BitVec.xor_assoc _ _ _
  · change (a >>> 1 ^^^ b >>> 1) ^^^ crcPoly = (a >>> 1 ^^^ crcPoly) ^^^ b >>> 1
    ac_rfl
  · exact hcancel

theorem crcBits_xor (n : Nat) (a b : Word) : crcBits n (a ^^^ b) = crcBits n a ^^^ crcBits n b := by
  induction n generalizing a b with
  | zero => rfl
  | succ n ih => simp only [crcBits, crcBit_xor, ih]

theorem crcBit_of_even {c : Word} (h : c.getLsbD 0 = false) : crcBit c = c >>> 1 := by
  simp only [crcBit, h, Bool.false_eq_true, if_false]

/-- R167: as long as the low bits are 0, the inner loop only shifts. -/
theorem crcBits_of_low_bits_zero {n : Nat} {c : Word} (h : ∀ i < n, c.getLsbD i = false) :
    crcBits n c = c >>> n := by
  induction n generalizing c with
  | zero => rfl
  | succ n ih =>
    have hlow : ∀ i < n, (c >>> 1).getLsbD i = false := fun i hi => by
      rw [BitVec.getLsbD_ushiftRight]
      exact h (1 + i) (by omega)
    rw [crcBits, crcBit_of_even (h 0 n.succ_pos), ih hlow, ← BitVec.shiftRight_add, Nat.add_comm]

/-! ### The table -/

theorem eq_low_byte_xor_rest (c : Word) : c = (c.extractLsb' 0 8).setWidth 32 ^^^ c >>> 8 <<< 8 := by
  ext i hi
  by_cases h8 : i < 8
  · simp [h8, hi]
  · have hindex : 8 + (i - 8) = i := by omega
    simp [h8, hi, hindex]

/-- R168: eight passes of the inner loop are one look-up, of the low byte, and a shift of the rest. -/
theorem crcBits_eight (c : Word) : crcBits 8 c = crcTable (c.extractLsb' 0 8) ^^^ c >>> 8 := by
  have hlow : ∀ i < 8, (c >>> 8 <<< 8).getLsbD i = false := fun i hi => by simp [hi]
  have hshift : c >>> 8 <<< 8 >>> 8 = c >>> 8 := by
    ext i hi
    simpa using BitVec.lt_of_getLsbD
  calc crcBits 8 c
      = crcBits 8 ((c.extractLsb' 0 8).setWidth 32 ^^^ c >>> 8 <<< 8) := by rw [← eq_low_byte_xor_rest]
    _ = crcTable (c.extractLsb' 0 8) ^^^ crcBits 8 (c >>> 8 <<< 8) := crcBits_xor 8 _ _
    _ = crcTable (c.extractLsb' 0 8) ^^^ c >>> 8 := by rw [crcBits_of_low_bits_zero hlow, hshift]

/-- R168: the byte taken in leaves bits 8 to 31 alone, so the shift of the rest does not see it. -/
theorem crcTableByte_eq_crcByte (c : Word) (b : Byte) : crcTableByte c b = crcByte c b := by
  have hb : b.setWidth 32 >>> 8 = 0#32 := by
    ext i hi
    simp
  rw [crcTableByte, crcByte, crcBits_eight, BitVec.ushiftRight_xor_distrib, hb, BitVec.xor_zero]

theorem crc32Table_eq_crc32 (b : Bytes) : crc32Table b = crc32 b := by
  rw [crc32Table, crc32, funext₂ crcTableByte_eq_crcByte]

/-- Settles O10: the two forms agree byte for byte, and the five entries are eight passes each. -/
theorem tableFormEqualsBitSerialForm : Obligations.TableFormEqualsBitSerialForm :=
  ⟨crc32Table_eq_crc32, by decide +kernel⟩

/-! ### The reference values -/

theorem foldl_crcByte_zeros_add (m n : Nat) (c : Word) :
    (zeros (m + n)).foldl crcByte c = (zeros n).foldl crcByte ((zeros m).foldl crcByte c) := by
  simp only [zeros, ← List.replicate_append_replicate, List.foldl_append]

set_option maxRecDepth 20000 in
/-- The remainder after one page of zeros. -/
theorem foldl_crcByte_first_zero_page : (zeros 1024).foldl crcByte 0xFFFFFFFF#32 = 0x104A50D1#32 := by
  decide +kernel

set_option maxRecDepth 20000 in
/-- The remainder after a second page of zeros. -/
theorem foldl_crcByte_second_zero_page : (zeros 1024).foldl crcByte 0x104A50D1#32 = 0x0E174561#32 := by
  decide +kernel

/-- Settles O9: the short inputs are evaluated; the two long ones are one page and two pages of zeros, evaluated a page
at a time. -/
theorem referenceChecksums : Obligations.ReferenceChecksums := by
  refine ⟨rfl, by decide +kernel, by decide +kernel, ?_, ?_⟩
  · rw [crc32, foldl_crcByte_first_zero_page]
    rfl
  · rw [crc32, foldl_crcByte_zeros_add 1024 1024, foldl_crcByte_first_zero_page, foldl_crcByte_second_zero_page]
    rfl

end Sys2Proof.Machine
end

section
/-! The cipher port (42_cipher_port.md R182, R183): Encrypt and Decrypt as the two directions of one permutation. -/

namespace Sys2Proof.Machine

/-- R182, C-INV. The ciphertext is as long as its plaintext, so both calls use the permutation of one length. -/
@[simp] theorem decryptWith_encryptWith (e : Cipher) (k iv : Block16) (p : Bytes) :
    decryptWith e k iv (encryptWith e k iv p) = p := by
  let sameLength := e.perm k iv p.length
  calc decryptWith e k iv (encryptWith e k iv p)
      = (sameLength.symm (sameLength ⟨p, rfl⟩)).val :=
        (perm_val_congr e k iv (encryptWith_length e k iv p) rfl (encryptWith_length e k iv p)).2
    _ = p := by rw [Equiv.symm_apply_apply]

/-- R183: C-INV the other way round. -/
@[simp] theorem encryptWith_decryptWith (e : Cipher) (k iv : Block16) (c : Bytes) :
    encryptWith e k iv (decryptWith e k iv c) = c := by
  let sameLength := e.perm k iv c.length
  calc encryptWith e k iv (decryptWith e k iv c)
      = (sameLength (sameLength.symm ⟨c, rfl⟩)).val :=
        (perm_val_congr e k iv (decryptWith_length e k iv c) rfl (decryptWith_length e k iv c)).1
    _ = c := by rw [Equiv.apply_symm_apply]

/-- R183: Encrypt under one key and IV has a left inverse. -/
theorem encryptWith_injective (e : Cipher) (k iv : Block16) : Function.Injective (encryptWith e k iv) :=
  Function.LeftInverse.injective (decryptWith_encryptWith e k iv)

/-- Settles O11, from the two inverse laws of the port. -/
theorem cipherIsLengthPreservingAndInvertible : Obligations.CipherIsLengthPreservingAndInvertible :=
  fun e k iv b _ => ⟨encryptWith_length e k iv b, decryptWith_length e k iv b, decryptWith_encryptWith e k iv b,
    encryptWith_decryptWith e k iv b, fun h => encryptWith_injective e k iv h⟩

end Sys2Proof.Machine
end

section
/-! CREATE and the round trip (43_create.md R200, R202, R204): the frame CREATE stores and the lengths it reports, a frame
in SRC as RECOVER reads it, and the two statements that rest on them. -/

namespace Sys2Proof.Machine

/-! ### Shared facts -/

/-- R254: the fields of STATUS after `complete_ok`. -/
theorem okStatus_statusIs (old : Word) (k : Bool) : StatusIs old (okStatus old k) false true false k 0#4 :=
  ⟨writeStatus_busy .., writeStatus_done .., writeStatus_error .., writeStatus_iok .., writeStatus_code ..,
    writeStatus_reserved ..⟩

theorem keyLenOk_of_eq {r : Regs} (h : r.keyLen = 16#32) : keyLenOk r = true :=
  decide_eq_true h

/-- What no completion changes, of a successful one: a store to DST keeps its capacity. -/
theorem Completed.sameOutside {i : Instr} {s t : State} (h : Completed i s t) : SameOutside s t := by
  have hcap : t.dst.cap = s.dst.cap := by
    obtain hdst | ⟨b, -, -, hdst, -⟩ := h.dst
    · rw [hdst]
    · rw [hdst, Memory.write_cap]
  exact ⟨h.src, hcap, h.faults, h.hostStopped, h.engineStopped, h.inputs, h.response⟩

/-- A range that holds one sequence and then another holds each of the two. -/
theorem Memory.read_append {m : Memory} {a : Nat} {b c : Bytes}
    (h : m.read a (b ++ c).length = some (b ++ c)) :
    m.read a b.length = some b ∧ m.read (a + b.length) c.length = some c := by
  obtain ⟨-, hget⟩ := Memory.read_eq_some.1 h
  rw [List.length_append] at hget
  constructor
  · refine Memory.read_eq_some.2 ⟨rfl, fun i hi => ?_⟩
    rw [hget i (by omega), List.getElem?_append_left hi]
  · refine Memory.read_eq_some.2 ⟨rfl, fun i hi => ?_⟩
    rw [Nat.add_assoc, hget (b.length + i) (by omega), List.getElem?_append_right (Nat.le_add_right ..),
      Nat.add_sub_cancel_left]

/-! ### CREATE -/

/-- R200: with a 16-byte key, a source that fits and is written, and room for the frame, every check passes. -/
theorem createCompletion_eq_createSuccess {e : Cipher} {iv : Block16} {s : State} {q : Bytes}
    (hkey : s.regs.keyLen = 16#32) (hsrc : srcLength s ≤ s.src.cap)
    (hdst : headerLen + padLen (srcLength s) ≤ s.dst.cap) (hq : srcBytes (srcLength s) s = some q) :
    createCompletion e iv s = createSuccess e iv q s := by
  simp [createCompletion, keyLenOk_of_eq hkey, hsrc.not_gt, hdst.not_gt, hq]

/-- R202: DST holds the frame from offset 0 on. -/
theorem createSuccess_dst_read_frame (e : Cipher) (iv : Block16) (q : Bytes) (s : State) :
    (createSuccess e iv q s).dst.read 0 (36 + padLen q.length) = some (createFrame e s.regs iv (padBytes q)) := by
  rw [← padBytes_length, ← createFrame_length e s.regs iv]
  exact Memory.read_write ..

/-- R202: CREATE stores nothing behind the frame. -/
theorem createSuccess_dst_get_of_le {e : Cipher} {iv : Block16} {q : Bytes} {s : State} {a : Nat}
    (h : 36 + padLen q.length ≤ a) : (createSuccess e iv q s).dst.get a = s.dst.get a := by
  rw [← padBytes_length, ← createFrame_length e s.regs iv] at h
  exact (Memory.get_write ..).trans (if_neg (by omega))

theorem createSuccess_outLen {e : Cipher} {iv : Block16} {q : Bytes} {s : State} (h : 36 + padLen q.length < 2 ^ 32) :
    (createSuccess e iv q s).regs.outLen.toNat = 36 + padLen q.length := by
  rw [← padBytes_length] at h ⊢
  exact toWord_toNat h

theorem createSuccess_ctLen {e : Cipher} {iv : Block16} {q : Bytes} {s : State} (h : padLen q.length < 2 ^ 32) :
    (createSuccess e iv q s).regs.ctLen.toNat = padLen q.length := by
  rw [← padBytes_length] at h ⊢
  exact toWord_toNat h

theorem createSuccess_pageCount {e : Cipher} {iv : Block16} {q : Bytes} {s : State} (h : padLen q.length < 2 ^ 32) :
    (createSuccess e iv q s).regs.pageCount.toNat = padLen q.length / 1024 := by
  rw [← padBytes_length] at h ⊢
  exact toWord_toNat ((Nat.div_le_self ..).trans_lt h)

/-- R130, R202: the fields of the frame CREATE stores for a source `q`, one after the other. -/
theorem createFrame_padBytes (e : Cipher) (r : Regs) (iv : Block16) (q : Bytes) :
    createFrame e r iv (padBytes q)
      = le32 r.protocolVersion ++ le32 r.productId ++ le32 r.appVersion
        ++ le32 (BitVec.ofNat 32 (padLen q.length / 1024)) ++ iv.toList ++ le32 (crc32 (padBytes q))
        ++ encryptWith e (keyBytes r) iv (padBytes q) := by
  rw [← padBytes_length]
  rfl

/-- Settles O42: every check passes, so CREATE ends in `createSuccess`; the frame fits DST, whose capacity is below 2^32,
so each length it reports fits its register. -/
theorem createStoresTheFrame : Obligations.CreateStoresTheFrame := by
  intro s q hkey hsrc hdst hcap hlen hcells
  have hq : srcBytes (srcLength s) s = some q :=
    Memory.read_eq_some.2 ⟨hlen, fun a ha => by rw [Nat.zero_add, hcells a (hlen ▸ ha)]⟩
  have hdone := createCompletion_eq_createSuccess (e := Config.cipher) (iv := Config.ivDraw s.freeIdx) hkey hsrc hdst hq
  have hroom : 36 + padLen q.length ≤ s.dst.cap := by rwa [hlen]
  have hframe : 36 + padLen q.length < 2 ^ 32 := hroom.trans_lt hcap
  have hpadded : padLen q.length < 2 ^ 32 := (Nat.le_add_left ..).trans_lt hframe
  refine ⟨createSuccess Config.cipher (Config.ivDraw s.freeIdx) q s, congrArg Host.Outcome.next hdone, ?_,
    fun _ => createSuccess_dst_get_of_le, createSuccess_pageCount hpadded, createSuccess_outLen hframe,
    createSuccess_ctLen hpadded, okStatus_statusIs .., rfl, rfl, rfl, (createSuccess_completed hroom).sameOutside⟩
  rw [createSuccess_dst_read_frame, createFrame_padBytes]

/-! ### RECOVER of a frame -/

/-- R134: the page count of a header that CREATE packs for whole pages gives their length back. -/
theorem frameNeed_createHeader {r : Regs} {iv : Block16} {p : Bytes} (hmod : p.length % 1024 = 0)
    (h : p.length < 2 ^ 32) : frameNeed (createHeader r iv p) = p.length := by
  have hpages : (toWord (p.length / 1024)).toNat = p.length / 1024 := toWord_toNat ((Nat.div_le_self ..).trans_lt h)
  simp only [frameNeed, createHeader, hpages, pageSize]
  exact Nat.div_mul_cancel (Nat.dvd_of_mod_eq_zero hmod)

/-- R230: with a 16-byte key, a frame alone in SRC and room for its plaintext, every check passes. -/
theorem recoverCompletion_eq_recoverSuccess {e : Cipher} {h : Header} {ct : Bytes} {u : State}
    (hkey : u.regs.keyLen = 16#32) (hlen : srcLength u = 36 + ct.length) (hsrc : srcLength u ≤ u.src.cap)
    (hneed : frameNeed h = ct.length) (hdst : ct.length ≤ u.dst.cap)
    (hread : u.src.read 0 (36 + ct.length) = some (packHeader h ++ ct)) :
    recoverCompletion e u = recoverSuccess e h ct u := by
  have hparse : parseHeader (packHeader h) = h := by
    simpa only [List.append_nil] using parseHeader_packHeader h []
  obtain ⟨hheader, hbody⟩ := Memory.read_append (m := u.src) (a := 0) (b := packHeader h) (c := ct)
    (by rwa [List.length_append, packHeader_length])
  rw [packHeader_length] at hheader hbody
  rw [hlen] at hsrc
  simp [recoverCompletion, recoverBody, keyLenOk_of_eq hkey, hlen, hsrc.not_gt, hheader, hparse, hneed, hdst.not_gt,
    hbody]

/-- The plaintext RECOVER stores is there from offset 0 on. -/
theorem recoverSuccess_dst_read (e : Cipher) (h : Header) (ct : Bytes) (u : State) :
    (recoverSuccess e h ct u).dst.read 0 ct.length = some (decryptWith e (keyBytes u.regs) h.iv ct) := by
  rw [← decryptWith_length e (keyBytes u.regs) h.iv ct]
  exact Memory.read_write ..

theorem recoverSuccess_outLen {e : Cipher} {h : Header} {ct : Bytes} {u : State} (hlt : frameNeed h < 2 ^ 32) :
    (recoverSuccess e h ct u).regs.outLen.toNat = frameNeed h :=
  toWord_toNat hlt

/-- R234: INTEGRITY_OK compares the checksum of the padded plaintext with the one in the header. -/
theorem recoverSuccess_status (e : Cipher) (h : Header) (ct : Bytes) (u : State) :
    (recoverSuccess e h ct u).regs.status
      = okStatus u.regs.status (decide (crc32 (padBytes (decryptWith e (keyBytes u.regs) h.iv ct)) = h.crc)) := rfl

/-! ### The round trip -/

/-- R204: RECOVER of the frame that CREATE makes of whole pages `p` under the registers `r`, with the same key. Decrypt
undoes Encrypt, and padding leaves `p` as it is, so the two checksums agree. -/
theorem recoverCompletion_createFrame {e : Cipher} {r : Regs} {iv : Block16} {p : Bytes} {u : State}
    (hmod : p.length % 1024 = 0) (hkey : u.regs.keyLen = 16#32) (hsame : keyBytes u.regs = keyBytes r)
    (hlen : srcLength u = 36 + p.length) (hsrc : srcLength u ≤ u.src.cap) (hdst : p.length ≤ u.dst.cap)
    (hread : u.src.read 0 (36 + p.length) = some (createFrame e r iv p)) :
    StatusIs u.regs.status (recoverCompletion e u).regs.status false true false true 0#4
      ∧ (recoverCompletion e u).dst.read 0 p.length = some p
      ∧ (recoverCompletion e u).regs.outLen.toNat = p.length
      ∧ (recoverCompletion e u).regs.protocolVersion = r.protocolVersion
      ∧ (recoverCompletion e u).regs.productId = r.productId
      ∧ (recoverCompletion e u).regs.appVersion = r.appVersion := by
  have hlt : p.length < 2 ^ 32 := (Nat.le_add_left ..).trans_lt (hlen ▸ srcLength_lt u)
  have hneed : frameNeed (createHeader r iv p) = p.length := frameNeed_createHeader hmod hlt
  have hct : (encryptWith e (keyBytes r) iv p).length = p.length := encryptWith_length ..
  have hplain : decryptWith e (keyBytes u.regs) iv (encryptWith e (keyBytes r) iv p) = p := by
    rw [hsame, decryptWith_encryptWith]
  have hcrc : crc32 (padBytes p) = crc32 p := by rw [padBytes_eq_self_iff.2 hmod]
  have hdone : recoverCompletion e u
      = recoverSuccess e (createHeader r iv p) (encryptWith e (keyBytes r) iv p) u :=
    recoverCompletion_eq_recoverSuccess hkey (by rw [hlen, hct]) hsrc (by rw [hneed, hct]) (by rwa [hct])
      (by rw [hct, hread, createFrame])
  rw [hdone]
  refine ⟨?_, ?_, ?_, rfl, rfl, rfl⟩
  · rw [recoverSuccess_status, createHeader, hplain, decide_eq_true hcrc]
    exact okStatus_statusIs ..
  · rw [← hct, recoverSuccess_dst_read, createHeader, hplain]
  · rw [recoverSuccess_outLen (by rwa [hneed]), hneed]

/-- Settles O44: CREATE ends in `createSuccess`, so SRC of the second machine holds the frame of `pad(q)`, which RECOVER
undoes. -/
theorem recoverUndoesCreate : Obligations.RecoverUndoesCreate := by
  refine ⟨fun _ => ⟨rfl, rfl⟩, ?_⟩
  intro e iv s t u q hkey hsrc hdst hcap hq ht hulen hcells hufits hudst hukey hsame
  rw [createCompletion_eq_createSuccess hkey hsrc hdst hq] at ht
  subst ht
  have hroom : 36 + padLen q.length ≤ s.dst.cap := by rwa [srcBytes_length hq]
  have hout : (createSuccess e iv q s).regs.outLen.toNat = 36 + padLen q.length :=
    createSuccess_outLen (hroom.trans_lt hcap)
  have hulength : srcLength u = 36 + padLen q.length := by rw [srcLength, hulen, hout]
  have hread : u.src.read 0 (36 + padLen q.length) = some (createFrame e s.regs iv (padBytes q)) := by
    rw [← createSuccess_dst_read_frame]
    exact Memory.read_congr fun a ha => hcells (0 + a) (by omega)
  rw [← padBytes_length] at hulength hudst hread ⊢
  exact recoverCompletion_createFrame (padBytes_length_mod q) hukey hsame hulength (by rwa [srcLength, hulen]) hudst
    hread

end Sys2Proof.Machine
end

section
/-! RECOVER (44_recover.md R230 to R235): the checks it has passed once a frame lies in SRC, the state it leaves, and
that neither depends on SRC behind the declared ciphertext. -/

namespace Sys2Proof.Machine

/-! ### The IV registers -/

/-- R54, R133: IV0 to IV3 take the four words of the 16 bytes at `o`. -/
theorem Regs.setIv_block16At (r : Regs) (b : Bytes) (o : Nat) :
    r.setIv (block16At b o)
      = { r with iv0 := rdle32 b o, iv1 := rdle32 b (o + 4), iv2 := rdle32 b (o + 8), iv3 := rdle32 b (o + 12) } := by
  have hbyte {i : Nat} (hi : i < 16) : byteAt (block16At b o).toList i = byteAt b (o + i) := by
    simp [byteAt, block16At, hi]
  have hword {i : Nat} (hi : i + 4 ≤ 16) : rdle32 (block16At b o).toList i = rdle32 b (o + i) :=
    rdle32_congr fun k _ => by rw [hbyte (by omega), Nat.add_assoc]
  simp only [Regs.setIv, hword, Nat.reduceAdd, Nat.reduceLeDiff, Nat.add_zero]

/-! ### The checks -/

/-- R230: with a 16-byte key and a written header inside SRC, RECOVER comes to the checks of the page count. -/
theorem recoverCompletion_eq_recoverBody {e : Cipher} {s : State} {b : Bytes} (hkey : s.regs.keyLen = 16#32)
    (hsrc : srcLength s ≤ s.src.cap) (hheader : headerLen ≤ srcLength s) (hb : s.src.read 0 headerLen = some b) :
    recoverCompletion e s = recoverBody e (parseHeader b) s := by
  simp [recoverCompletion, keyLenOk_of_eq hkey, hsrc.not_gt, hheader.not_gt, hb]

/-- R230, R231: a declared ciphertext that lies in SRC, fits DST and is written is recovered. -/
theorem recoverBody_eq_recoverSuccess {e : Cipher} {h : Header} {s : State} {ct : Bytes}
    (hneed : frameNeed h ≤ srcLength s - headerLen) (hdst : frameNeed h ≤ s.dst.cap)
    (hct : s.src.read headerLen (frameNeed h) = some ct) : recoverBody e h s = recoverSuccess e h ct s := by
  simp [recoverBody, hneed.not_gt, hdst.not_gt, hct]

/-! ### The state RECOVER leaves -/

/-- R235: RECOVER stores nothing behind the plaintext. -/
theorem recoverSuccess_dst_get_of_le {e : Cipher} {h : Header} {ct : Bytes} {s : State} {a : Nat}
    (ha : ct.length ≤ a) : (recoverSuccess e h ct s).dst.get a = s.dst.get a := by
  rw [← decryptWith_length e (keyBytes s.regs) h.iv ct] at ha
  exact (Memory.get_write ..).trans (if_neg (by omega))

theorem recoverSuccess_ctLen {e : Cipher} {h : Header} {ct : Bytes} {s : State} (hlt : frameNeed h < 2 ^ 32) :
    (recoverSuccess e h ct s).regs.ctLen.toNat = frameNeed h :=
  toWord_toNat hlt

/-- R231, R234: the declared ciphertext is whole pages, so padding leaves its plaintext as it is. -/
theorem padBytes_decryptWith {e : Cipher} {key iv : Block16} {h : Header} {ct : Bytes}
    (hlen : ct.length = frameNeed h) :
    padBytes (decryptWith e key iv ct) = decryptWith e key iv ct := by
  rw [padBytes_eq_self_iff, decryptWith_length, hlen]
  exact Nat.mul_mod_left ..

/-- Settles O43: every check passes, so RECOVER ends in `recoverSuccess`; the ciphertext lies in SRC, so its length fits
the registers, and it is whole pages, so the checksum is that of the plaintext itself. -/
theorem recoverStoresThePlaintext : Obligations.RecoverStoresThePlaintext := by
  intro s b ct hkey hsrc hheader hb hneed hdst hct
  have hlen : ct.length = frameNeed (parseHeader b) := (Memory.read_eq_some.1 hct).1
  have hlt : frameNeed (parseHeader b) < 2 ^ 32 := (hneed.trans (Nat.sub_le ..)).trans_lt (srcLength_lt s)
  have hpad := padBytes_decryptWith (e := Config.cipher) (key := keyBytes s.regs) (iv := block16At b 16) hlen
  have hdone : recoverCompletion Config.cipher s = recoverSuccess Config.cipher (parseHeader b) ct s :=
    (recoverCompletion_eq_recoverBody hkey hsrc hheader hb).trans (recoverBody_eq_recoverSuccess hneed hdst hct)
  have hplain := recoverSuccess_dst_read Config.cipher (parseHeader b) ct s
  rw [hlen] at hplain
  refine ⟨recoverSuccess Config.cipher (parseHeader b) ct s, congrArg Host.Outcome.next hdone, hplain,
    fun a ha => recoverSuccess_dst_get_of_le (hlen.trans_le ha), recoverSuccess_outLen hlt, recoverSuccess_ctLen hlt,
    ?_, ?_, rfl, rfl, (recoverSuccess_completed hlen hdst).sameOutside⟩
  · rw [recoverSuccess_status, parseHeader, hpad]
    exact okStatus_statusIs ..
  · simp only [recoverSuccess, recoverRegs, parseHeader, Regs.setIv_block16At, hpad]
    rfl

/-! ### SRC behind the declared ciphertext -/

/-- `s` with another SRC buffer and another SRC_LEN. -/
def State.withSource (s : State) (m : Memory) (n : Word) : State :=
  { s with src := m, regs := { s.regs with srcLen := n } }

@[simp] theorem State.withSource_src (s : State) (m : Memory) (n : Word) : (s.withSource m n).src = m := rfl
@[simp] theorem State.withSource_dst (s : State) (m : Memory) (n : Word) : (s.withSource m n).dst = s.dst := rfl
@[simp] theorem srcLength_withSource (s : State) (m : Memory) (n : Word) : srcLength (s.withSource m n) = n.toNat := rfl

/-- R280: an error completion looks neither at SRC nor at SRC_LEN. -/
theorem errorCompletion_withSource (e : CmdError) (s : State) (m : Memory) (n : Word) :
    errorCompletion e (s.withSource m n) = (errorCompletion e s).withSource m n := by
  cases hkey : usesKey s.regs.cmd <;> simp only [errorCompletion, errorClear, State.withSource, hkey] <;> rfl

/-- R232: once the declared ciphertext is known to lie in SRC, RECOVER depends on no other cell of SRC and not on
SRC_LEN, at whichever of its ends it comes to. -/
theorem recoverBody_withSource {e : Cipher} {h : Header} {s : State} {m : Memory} {n : Word}
    (hneed : frameNeed h ≤ srcLength s - headerLen) (hneed' : frameNeed h ≤ n.toNat - headerLen)
    (hread : m.read headerLen (frameNeed h) = s.src.read headerLen (frameNeed h)) :
    recoverBody e h (s.withSource m n) = (recoverBody e h s).withSource m n := by
  simp only [recoverBody, srcLength_withSource, State.withSource_src, State.withSource_dst, hneed.not_gt,
    hneed'.not_gt, if_false, hread]
  split
  · exact errorCompletion_withSource ..
  · split <;> rfl

/-- Settles O48: both states come to the checks of the same page count with the same header, and from there RECOVER
reads cells below `36 + need` only. -/
theorem trailingBytesAreIgnored : Obligations.TrailingBytesAreIgnored := by
  intro s u b hkey hu hsrc husrc hb hneed huneed hcells
  obtain ⟨m, n, rfl⟩ : ∃ m n, u = s.withSource m n := ⟨u.src, u.regs.srcLen, hu⟩
  have hub : m.read 0 headerLen = some b :=
    (Memory.read_congr fun i hi => hcells (0 + i) (by simp only [headerLen] at hi; omega)).trans hb
  have hread : m.read headerLen (frameNeed (parseHeader b)) = s.src.read headerLen (frameNeed (parseHeader b)) :=
    Memory.read_congr fun i hi => hcells (36 + i) (Nat.add_lt_add_left hi 36)
  have hbody : recoverBody Config.cipher (parseHeader b) (s.withSource m n)
      = (recoverBody Config.cipher (parseHeader b) s).withSource m n :=
    recoverBody_withSource (Nat.le_sub_of_add_le' hneed) (Nat.le_sub_of_add_le' huneed) hread
  have hs : recoverCompletion Config.cipher s = recoverBody Config.cipher (parseHeader b) s :=
    recoverCompletion_eq_recoverBody hkey hsrc ((Nat.le_add_right ..).trans hneed) hb
  have hu : recoverCompletion Config.cipher (s.withSource m n)
      = recoverBody Config.cipher (parseHeader b) (s.withSource m n) :=
    recoverCompletion_eq_recoverBody hkey husrc ((Nat.le_add_right ..).trans huneed) hub
  exact ⟨_, congrArg Host.Outcome.next hs, congrArg Host.Outcome.next (hu.trans hbody)⟩

end Sys2Proof.Machine
end

section
/-! Control of the commands (45_control.md R252 to R255, 60_exceptions.md R276, R280): the whole state an error completion
leaves, the key registers after each end a completion can have, and the three statements that rest on them. -/

namespace Sys2Proof.Machine

/-! ### NOP -/

/-- R254: the whole STATUS word after `complete_ok(0)`, once its reserved bits are 0. -/
theorem okStatus_false_eq {old : Word} (h : old &&& statusReservedMask = 0#32) : okStatus old false = 0x00000002#32 :=
  writeStatus_eq_pack h ..

/-- Settles O38: NOP ends in `completeOk false`, which writes STATUS and SEQ only. -/
theorem nopCompletesWithoutEffect : Obligations.NopCompletesWithoutEffect :=
  ⟨rfl, fun s => ⟨completeOk false s, rfl, okStatus_statusIs .., okStatus_false_eq, rfl⟩⟩

/-! ### The error completion -/

/-- R280: the fields of STATUS after an error completion. -/
theorem errorStatus_statusIs (old : Word) (e : CmdError) :
    StatusIs old (errorStatus old e) false true true false e.code :=
  ⟨writeStatus_busy .., writeStatus_done .., writeStatus_error .., writeStatus_iok .., writeStatus_code ..,
    writeStatus_reserved ..⟩

theorem errorCompletion_sameOutside (e : CmdError) (s : State) : SameOutside s (errorCompletion e s) := by
  simp [SameOutside]

/-- R280: the error completion is the one the spec describes; it wipes the key exactly when the word in CMD uses one. -/
theorem errorCompletion_errorsWith (e : CmdError) (s : State) :
    ErrorsWith e.code (usesKey s.regs.cmd) s (errorCompletion e s) := by
  refine ⟨?_, ?_, errorCompletion_seq e s, errorCompletion_dst e s, errorCompletion_freeIdx e s,
    errorCompletion_sameOutside e s⟩
  · rw [errorCompletion_status]
    exact errorStatus_statusIs ..
  · rw [errorCompletion_regs]
    cases usesKey s.regs.cmd <;> rfl

/-! ### Illegal words -/

/-- R280: a word uses the key exactly when it is CREATE or RECOVER. -/
theorem usesKey_iff {w : Word} : usesKey w = true ↔ decode w = .ok .create ∨ decode w = .ok .recover := by
  unfold usesKey
  split <;> simp [*]

theorem usesKey_of_illegal {c : Word} {w : IllegalWord} (h : decode c = .error w) : usesKey c = false := by
  simp [usesKey, h]

/-- R253: the completion of an illegal word. -/
theorem complete_of_illegal {s : State} {w : IllegalWord} (h : decode s.regs.cmd = .error w) :
    complete s = .next (errorCompletion .illegalCommand s) := by
  simp [complete, h, illegalCompletion]

/-- R276: the whole STATUS word after an ILLEGAL_COMMAND, once its reserved bits are 0. -/
theorem errorStatus_illegalCommand_eq {old : Word} (h : old &&& statusReservedMask = 0#32) :
    errorStatus old .illegalCommand = 0x00000606#32 :=
  writeStatus_eq_pack h ..

/-- Settles O39: the ENGINE's step is the error completion, and an illegal word uses no key, whatever its OPCODE bits. -/
theorem illegalWordIsReported : Obligations.IllegalWordIsReported := by
  intro s rest w hdue hillegal
  have herrors := errorCompletion_errorsWith .illegalCommand { s with inputs := rest }
  rw [usesKey_of_illegal hillegal] at herrors
  refine ⟨_, (step_engineDue hdue).trans (complete_of_illegal hillegal), herrors, fun hreserved => ?_⟩
  rw [errorCompletion_status]
  exact errorStatus_illegalCommand_eq hreserved

/-! ### The key registers after a completion -/

/-- KEY_LEN and KEY0 to KEY3 hold the same in both register files (R52, R53). -/
def Regs.SameKey (r q : Regs) : Prop :=
  r.keyLen = q.keyLen ∧ r.key0 = q.key0 ∧ r.key1 = q.key1 ∧ r.key2 = q.key2 ∧ r.key3 = q.key3

/-- R255: unless a recorded fault kept the completion from `s` to `t` from happening, `t` holds the key wiped when the
word in CMD uses the key, and the key of `s` otherwise. -/
def KeyOutcome (s t : State) : Prop :=
  t.engineStopped = false → t.regs.SameKey (if usesKey s.regs.cmd then s.regs.wipeKey else s.regs)

theorem KeyOutcome.of_wiped {s t : State} (huse : usesKey s.regs.cmd = true) (h : t.regs.SameKey s.regs.wipeKey) :
    KeyOutcome s t := by
  intro _
  rwa [if_pos huse]

theorem KeyOutcome.of_kept {s t : State} (huse : usesKey s.regs.cmd = false) (h : t.regs.SameKey s.regs) :
    KeyOutcome s t := by
  intro _
  rwa [huse]

/-- R280: an error completion wipes the key of the words that use it. -/
theorem errorCompletion_keyOutcome (e : CmdError) (s : State) : KeyOutcome s (errorCompletion e s) := by
  intro _
  rw [errorCompletion_regs]
  exact ⟨rfl, rfl, rfl, rfl, rfl⟩

/-- R304: a recorded UnwrittenRead is no completion. -/
theorem engineUnwrittenRead_keyOutcome (s : State) : KeyOutcome s (engineUnwrittenRead s) := by
  simp [KeyOutcome]

theorem createCompletion_keyOutcome {e : Cipher} {iv : Block16} {s : State} (huse : usesKey s.regs.cmd = true) :
    KeyOutcome s (createCompletion e iv s) := by
  obtain ⟨-, h⟩ | ⟨-, -, h⟩ | ⟨-, -, -, h⟩ | ⟨-, -, -, -, h⟩ | ⟨q, -, -, -, -, h⟩ := createCompletion_cases e iv s <;>
    rw [h]
  · exact errorCompletion_keyOutcome _ s
  · exact errorCompletion_keyOutcome _ s
  · exact errorCompletion_keyOutcome _ s
  · exact engineUnwrittenRead_keyOutcome s
  · exact .of_wiped huse ⟨rfl, rfl, rfl, rfl, rfl⟩

theorem recoverBody_keyOutcome {e : Cipher} {h : Header} {s : State} (huse : usesKey s.regs.cmd = true) :
    KeyOutcome s (recoverBody e h s) := by
  obtain ⟨-, hend⟩ | ⟨-, -, hend⟩ | ⟨-, -, -, hend⟩ | ⟨ct, -, -, -, hend⟩ := recoverBody_cases e h s <;> rw [hend]
  · exact errorCompletion_keyOutcome _ s
  · exact errorCompletion_keyOutcome _ s
  · exact engineUnwrittenRead_keyOutcome s
  · exact .of_wiped huse ⟨rfl, rfl, rfl, rfl, rfl⟩

theorem recoverCompletion_keyOutcome {e : Cipher} {s : State} (huse : usesKey s.regs.cmd = true) :
    KeyOutcome s (recoverCompletion e s) := by
  obtain ⟨-, h⟩ | ⟨-, -, h⟩ | ⟨-, -, -, h⟩ | ⟨-, -, -, -, h⟩ | ⟨b, -, -, -, -, h⟩ := recoverCompletion_cases e s <;>
    rw [h]
  · exact errorCompletion_keyOutcome _ s
  · exact errorCompletion_keyOutcome _ s
  · exact errorCompletion_keyOutcome _ s
  · exact engineUnwrittenRead_keyOutcome s
  · exact recoverBody_keyOutcome huse

theorem padCompletion_keyOutcome {s : State} (huse : usesKey s.regs.cmd = false) : KeyOutcome s (padCompletion s) := by
  obtain ⟨-, h⟩ | ⟨-, -, h⟩ | ⟨-, -, -, h⟩ | ⟨q, -, -, -, h⟩ := padCompletion_cases s <;> rw [h]
  · exact errorCompletion_keyOutcome _ s
  · exact errorCompletion_keyOutcome _ s
  · exact engineUnwrittenRead_keyOutcome s
  · exact .of_kept huse ⟨rfl, rfl, rfl, rfl, rfl⟩

theorem crc32Completion_keyOutcome {s : State} (huse : usesKey s.regs.cmd = false) :
    KeyOutcome s (crc32Completion s) := by
  obtain ⟨-, h⟩ | ⟨-, -, h⟩ | ⟨q, -, -, h⟩ := crc32Completion_cases s <;> rw [h]
  · exact errorCompletion_keyOutcome _ s
  · exact engineUnwrittenRead_keyOutcome s
  · exact .of_kept huse ⟨rfl, rfl, rfl, rfl, rfl⟩

/-- R255: what every completion does to the key, whatever the word in CMD. -/
theorem complete_keyOutcome {s t : State} (h : complete s = .next t) : KeyOutcome s t := by
  cases hcmd : decode s.regs.cmd with
  | error w =>
    obtain rfl := Host.Outcome.next.inj ((complete_of_illegal hcmd).symm.trans h)
    exact errorCompletion_keyOutcome .illegalCommand s
  | ok i =>
    have hexec : exec i s = .next t := by simpa [complete, hcmd] using h
    cases i <;> obtain rfl := Host.Outcome.next.inj hexec
    case nop => exact .of_kept (by simp [usesKey, hcmd]) ⟨rfl, rfl, rfl, rfl, rfl⟩
    case create => exact createCompletion_keyOutcome (by simp [usesKey, hcmd])
    case recover => exact recoverCompletion_keyOutcome (by simp [usesKey, hcmd])
    case pad => exact padCompletion_keyOutcome (by simp [usesKey, hcmd])
    case crc32 => exact crc32Completion_keyOutcome (by simp [usesKey, hcmd])

/-- Settles O56: the words that use the key are CREATE and RECOVER, and a completion wipes the key for those alone. -/
theorem keyIsWipedByCreateAndRecoverOnly : Obligations.KeyIsWipedByCreateAndRecoverOnly := by
  intro s t _ hst hrun
  have hkey := complete_keyOutcome hst hrun
  constructor
  · intro huses
    rwa [usesKey_iff.2 huses] at hkey
  · intro hcreate hrecover
    have huse : usesKey s.regs.cmd = false := by simp [← Bool.not_eq_true, usesKey_iff, hcreate, hrecover]
    rwa [huse] at hkey

end Sys2Proof.Machine
end

section
/-! The error checks of the commands (60_exceptions.md R271 to R275, R278): the error completion each check ends in once
the earlier ones have passed, and the five statements that rest on them. -/

namespace Sys2Proof.Machine

/-! ### The error completion of a command -/

/-- R280: of the five commands, CREATE and RECOVER use the key. -/
theorem usesKey_of_decode {w : Word} {i : Instr} (h : decode w = .ok i) :
    usesKey w = decide (i = .create ∨ i = .recover) := by
  cases i <;> simp [usesKey, h]

/-- R280: a command that ends in the error completion of `e` reports `e`, and wipes the key if it is CREATE or RECOVER. -/
theorem exec_errorsWith {i : Instr} {e : CmdError} {s : State} (hcmd : decode s.regs.cmd = .ok i)
    (hexec : exec i s = .next (errorCompletion e s)) :
    ∃ t, exec i s = .next t ∧ ErrorsWith e.code (decide (i = .create ∨ i = .recover)) s t := by
  refine ⟨_, hexec, ?_⟩
  rw [← usesKey_of_decode hcmd]
  exact errorCompletion_errorsWith e s

/-- R274: the one error with code 4. -/
theorem CmdError.code_ne_four {e : CmdError} (h : e ≠ .invalidHeader) : e.code ≠ 4#4 := by
  cases e with
  | invalidHeader => exact absurd rfl h
  | _ => decide

theorem errorCompletion_code (e : CmdError) (s : State) :
    statusErrCode (errorCompletion e s).regs.status = e.code := by
  rw [errorCompletion_status]
  exact writeStatus_code ..

/-- R254: a successful completion reports code 0. -/
theorem Completed.code_eq_zero {i : Instr} {s t : State} (h : Completed i s t) :
    statusErrCode t.regs.status = 0#4 := by
  obtain ⟨k, hk, -, -⟩ := h.status
  rw [hk]
  exact writeStatus_code ..

/-! ### The key check -/

theorem keyLenOk_of_ne {r : Regs} (h : r.keyLen ≠ 16#32) : keyLenOk r = false :=
  decide_eq_false h

section
variable {e : Cipher} {iv : Block16} {s : State}

/-- R271: CREATE's first check. -/
theorem createCompletion_of_keyLen_ne (h : s.regs.keyLen ≠ 16#32) :
    createCompletion e iv s = errorCompletion .invalidKeyLength s :=
  if_pos (keyLenOk_of_ne h)

/-- R271: RECOVER's first check. -/
theorem recoverCompletion_of_keyLen_ne (h : s.regs.keyLen ≠ 16#32) :
    recoverCompletion e s = errorCompletion .invalidKeyLength s :=
  if_pos (keyLenOk_of_ne h)

/-! ### The check of SRC_LEN -/

theorem createCompletion_of_src_cap_lt (hkey : s.regs.keyLen = 16#32) (h : s.src.cap < srcLength s) :
    createCompletion e iv s = errorCompletion .inputReadError s := by
  simp [createCompletion, keyLenOk_of_eq hkey, h]

theorem recoverCompletion_of_src_cap_lt (hkey : s.regs.keyLen = 16#32) (h : s.src.cap < srcLength s) :
    recoverCompletion e s = errorCompletion .inputReadError s := by
  simp [recoverCompletion, keyLenOk_of_eq hkey, h]

theorem padCompletion_of_src_cap_lt (h : s.src.cap < srcLength s) :
    padCompletion s = errorCompletion .inputReadError s :=
  if_pos h

theorem crc32Completion_of_src_cap_lt (h : s.src.cap < srcLength s) :
    crc32Completion s = errorCompletion .inputReadError s :=
  if_pos h

/-! ### The checks of the container -/

/-- R274: RECOVER of a source too short for a header. -/
theorem recoverCompletion_of_lt_headerLen (hkey : s.regs.keyLen = 16#32) (hsrc : srcLength s ≤ s.src.cap)
    (h : srcLength s < headerLen) : recoverCompletion e s = errorCompletion .invalidHeader s := by
  simp [recoverCompletion, keyLenOk_of_eq hkey, hsrc.not_gt, h]

/-- R275: RECOVER of a header that declares more than follows it. -/
theorem recoverBody_of_lt_frameNeed {h : Header} (hneed : srcLength s - headerLen < frameNeed h) :
    recoverBody e h s = errorCompletion .truncatedContainer s :=
  if_pos hneed

/-! ### The check of DST -/

theorem createCompletion_of_dst_cap_lt (hkey : s.regs.keyLen = 16#32) (hsrc : srcLength s ≤ s.src.cap)
    (h : s.dst.cap < headerLen + padLen (srcLength s)) :
    createCompletion e iv s = errorCompletion .outputWriteError s := by
  simp [createCompletion, keyLenOk_of_eq hkey, hsrc.not_gt, h]

theorem recoverBody_of_dst_cap_lt {h : Header} (hneed : frameNeed h ≤ srcLength s - headerLen)
    (hdst : s.dst.cap < frameNeed h) : recoverBody e h s = errorCompletion .outputWriteError s := by
  simp [recoverBody, hneed.not_gt, hdst]

theorem padCompletion_of_dst_cap_lt (hsrc : srcLength s ≤ s.src.cap) (h : s.dst.cap < padLen (srcLength s)) :
    padCompletion s = errorCompletion .outputWriteError s := by
  simp [padCompletion, hsrc.not_gt, h]

end

/-! ### The obligations -/

/-- Settles O49: the key check comes first in both commands. -/
theorem wrongKeyLengthIsReportedFirst : Obligations.WrongKeyLengthIsReportedFirst := fun _ hkey =>
  ⟨fun hcmd => exec_errorsWith hcmd (congrArg Host.Outcome.next (createCompletion_of_keyLen_ne hkey)),
    fun hcmd => exec_errorsWith hcmd (congrArg Host.Outcome.next (recoverCompletion_of_keyLen_ne hkey))⟩

/-- Settles O50: the check of SRC_LEN comes after the key check, and first in the commands that use no key. -/
theorem sourceBeyondCapacityIsReported : Obligations.SourceBeyondCapacityIsReported := fun _ hsrc =>
  ⟨fun hcmd hkey => exec_errorsWith hcmd (congrArg Host.Outcome.next (createCompletion_of_src_cap_lt hkey hsrc)),
    fun hcmd hkey => exec_errorsWith hcmd (congrArg Host.Outcome.next (recoverCompletion_of_src_cap_lt hkey hsrc)),
    fun hcmd => exec_errorsWith hcmd (congrArg Host.Outcome.next (padCompletion_of_src_cap_lt hsrc)),
    fun hcmd => exec_errorsWith hcmd (congrArg Host.Outcome.next (crc32Completion_of_src_cap_lt hsrc))⟩

/-- Settles O51: the check of DST is the last one before the bytes are read; RECOVER comes to it with a header whose
declared ciphertext lies in SRC. -/
theorem outputBeyondCapacityIsReported : Obligations.OutputBeyondCapacityIsReported := by
  intro s hsrc
  refine ⟨fun hcmd hkey hdst => ?_, fun hcmd hkey b hb hneed hdst => ?_, fun hcmd hdst => ?_⟩
  · exact exec_errorsWith hcmd (congrArg Host.Outcome.next (createCompletion_of_dst_cap_lt hkey hsrc hdst))
  · have hheader : headerLen ≤ srcLength s := (Nat.le_add_right ..).trans hneed
    have hbody := recoverCompletion_eq_recoverBody (e := Config.cipher) hkey hsrc hheader hb
    have hend := recoverBody_of_dst_cap_lt (e := Config.cipher) (h := parseHeader b) (Nat.le_sub_of_add_le' hneed) hdst
    exact exec_errorsWith hcmd (congrArg Host.Outcome.next (hbody.trans hend))
  · exact exec_errorsWith hcmd (congrArg Host.Outcome.next (padCompletion_of_dst_cap_lt hsrc hdst))

/-- R133, R274: once the header is parsed, RECOVER ends without code 4 or does not complete. -/
theorem recoverBody_code_ne_four {e : Cipher} {h : Header} {s : State}
    (hrun : (recoverBody e h s).engineStopped = false) : statusErrCode (recoverBody e h s).regs.status ≠ 4#4 := by
  obtain ⟨-, hend⟩ | ⟨-, -, hend⟩ | ⟨-, -, -, hend⟩ | ⟨ct, -, hdst, hct, hend⟩ := recoverBody_cases e h s
  · rw [hend, errorCompletion_code]
    exact CmdError.code_ne_four nofun
  · rw [hend, errorCompletion_code]
    exact CmdError.code_ne_four nofun
  · simp [hend] at hrun
  · rw [hend, (recoverSuccess_completed (Memory.read_eq_some.1 hct).1 hdst).code_eq_zero]
    decide

/-- R274: RECOVER of 36 bytes or more ends without code 4 or does not complete. -/
theorem recoverCompletion_code_ne_four {e : Cipher} {s : State} (hheader : headerLen ≤ srcLength s)
    (hrun : (recoverCompletion e s).engineStopped = false) :
    statusErrCode (recoverCompletion e s).regs.status ≠ 4#4 := by
  obtain ⟨-, hend⟩ | ⟨-, -, hend⟩ | ⟨-, -, hshort, -⟩ | ⟨-, -, -, -, hend⟩ | ⟨b, -, -, -, -, hend⟩ :=
    recoverCompletion_cases e s
  · rw [hend, errorCompletion_code]
    exact CmdError.code_ne_four nofun
  · rw [hend, errorCompletion_code]
    exact CmdError.code_ne_four nofun
  · exact absurd hheader hshort.not_ge
  · simp [hend] at hrun
  · rw [hend] at hrun ⊢
    exact recoverBody_code_ne_four hrun

/-- Settles O52: the length check is the only one that ends in INVALID_HEADER. -/
theorem shortContainerIsReported : Obligations.ShortContainerIsReported := by
  intro s hcmd hkey hsrc
  constructor
  · intro hshort
    exact exec_errorsWith hcmd (congrArg Host.Outcome.next (recoverCompletion_of_lt_headerLen hkey hsrc hshort))
  · intro hheader t hst _ hrun
    obtain rfl := Host.Outcome.next.inj hst
    exact recoverCompletion_code_ne_four hheader hrun

/-- Settles O53: 2^22 pages are 2^32 bytes or more, above every SRC_LEN, so the second clause is a case of the first. -/
theorem truncatedContainerIsReported : Obligations.TruncatedContainerIsReported := by
  intro s b hcmd hkey hheader hsrc hb
  have htruncated (hneed : s.regs.srcLen.toNat - 36 < (rdle32 b 12).toNat * 1024) :
      ∃ t, exec .recover s = .next t ∧ ErrorsWith 5#4 true s t := by
    have hbody := recoverCompletion_eq_recoverBody (e := Config.cipher) hkey hsrc hheader hb
    have hend := recoverBody_of_lt_frameNeed (e := Config.cipher) (h := parseHeader b) hneed
    exact exec_errorsWith hcmd (congrArg Host.Outcome.next (hbody.trans hend))
  refine ⟨htruncated, fun hpages => htruncated ?_⟩
  have hlt : s.regs.srcLen.toNat < 2 ^ 32 := srcLength_lt s
  omega

end Sys2Proof.Machine
end

section
/-! The invariant (10_state.md R36 to R42, R57, R58, R60): STATUS after an issue, a success and an error agrees with
SEQ, each fault stops an agent, every store stays inside its buffer; so every step keeps `State.Inv`. -/

namespace Sys2Proof.Machine

/-! ### STATUS -/

theorem StatusConsistent.congr {s t : State} (h : StatusConsistent s) (hstatus : t.regs.status = s.regs.status)
    (hseq : t.seq = s.seq) : StatusConsistent t := by
  constructor <;> simp only [hstatus, hseq]
  exacts [h.busy_iff, h.not_done, h.busy_clear, h.no_code, h.code_range, h.iok_ok, h.reserved]

/-- R250: an issue clears every field but BUSY. -/
theorem StatusConsistent.of_issueStatus {s : State} {old : Word} (hold : old &&& statusReservedMask = 0#32)
    (hseq : s.seq = .busy) (hstatus : s.regs.status = issueStatus old) : StatusConsistent s := by
  constructor <;> simp [hseq, hstatus, issueStatus, hold]

/-- R254. -/
theorem StatusConsistent.of_okStatus {s : State} {old : Word} {k : Bool} (hold : old &&& statusReservedMask = 0#32)
    (hseq : s.seq = .idle) (hstatus : s.regs.status = okStatus old k) : StatusConsistent s := by
  constructor <;> simp [hseq, hstatus, okStatus, hold]

/-- R280. -/
theorem StatusConsistent.of_errorStatus {s : State} {old : Word} {e : CmdError}
    (hold : old &&& statusReservedMask = 0#32) (hseq : s.seq = .idle) (hstatus : s.regs.status = errorStatus old e) :
    StatusConsistent s := by
  constructor <;> simp [hseq, hstatus, errorStatus, hold, e.code_range]

theorem StatusConsistent.of_reset {s : State} (hseq : s.seq = .idle) (hregs : s.regs = Regs.reset) :
    StatusConsistent s := by
  constructor <;> rw [hregs] <;> simp [hseq, Regs.reset, statusBusy, statusErrCode, statusError, statusIntegrityOk]

/-! ### FAULTS -/

theorem FaultsConsistent.congr {s t : State} (h : FaultsConsistent s) (hfaults : t.faults = s.faults)
    (hhost : t.hostStopped = s.hostStopped) (hengine : t.engineStopped = s.engineStopped) : FaultsConsistent t := by
  constructor
  · rw [State.faultFree, hfaults, hhost, hengine]
    exact h.empty_iff
  · rw [hfaults, hengine]
    exact h.engine

theorem FaultsConsistent.engineUnwrittenRead (s : State) : FaultsConsistent (engineUnwrittenRead s) := by
  constructor <;> simp [Faults.empty]

theorem FaultsConsistent.hostUnwrittenRead (s : State) : FaultsConsistent (hostUnwrittenRead s) := by
  constructor <;> simp [Faults.empty]

/-- R311: the hazard stops the HOST, and leaves a recorded UnwrittenRead where it was. -/
theorem FaultsConsistent.srcWriteHazard {s : State} (h : FaultsConsistent s) (t : Transaction) :
    FaultsConsistent (srcWriteHazard t s) := by
  constructor
  · simp [Faults.empty]
  · exact h.engine

/-! ### Each effect of a step -/

/-- What stands outside STATUS, SEQ, FAULTS, the stopped agents and the buffers does not matter to the invariant. -/
theorem State.Inv.congr {s t : State} (h : s.Inv) (hstatus : t.regs.status = s.regs.status) (hseq : t.seq = s.seq)
    (hfaults : t.faults = s.faults) (hhost : t.hostStopped = s.hostStopped)
    (hengine : t.engineStopped = s.engineStopped) (hsrc : t.src = s.src) (hdst : t.dst = s.dst) : t.Inv :=
  ⟨h.status.congr hstatus hseq, h.faults.congr hfaults hhost hengine, hsrc ▸ h.src, hdst ▸ h.dst⟩

theorem State.Inv.withInputs {s : State} (h : s.Inv) (rest : List Input) : State.Inv { s with inputs := rest } :=
  h.congr rfl rfl rfl rfl rfl rfl rfl

/-- R36: STATUS is read-only to the host. -/
theorem Regs.set_status {r : Regs} {n : RegName} {v : Word} (h : n.rights ≠ .ro) : (r.set n v).status = r.status := by
  cases n with
  | status => exact absurd rfl h
  | _ => rfl

theorem HostEffect.inv {t : Transaction} {s s' : State} (h : HostEffect t s s') (hs : s.Inv) : s'.Inv := by
  cases h with
  | answered r h =>
    subst h
    exact hs.congr rfl rfl rfl rfl rfl rfl rfl
  | issued w _ _ h =>
    subst h
    exact ⟨.of_issueStatus hs.status.reserved rfl rfl, hs.faults.congr rfl rfl rfl, hs.src, hs.dst⟩
  | stored n _ _ hn h =>
    subst h
    exact hs.congr (Regs.set_status hn.1) rfl rfl rfl rfl rfl rfl
  | unwritten h =>
    subst h
    exact ⟨hs.status.congr rfl rfl, .hostUnwrittenRead s, hs.src, hs.dst⟩
  | srcStored _ _ hok h =>
    subst h
    have hfits : t.offset.toNat + (busBytes t.width t.data).length ≤ s.src.cap := by
      rw [busBytes_length hok]
      exact bufAccess_le hok
    exact ⟨hs.status.congr rfl rfl, hs.faults.congr rfl rfl rfl, Memory.write_wf hs.src hfits, hs.dst⟩
  | hazard _ _ hok h =>
    subst h
    have hfits : t.offset.toNat + (hazardBytes s.freeIdx t.width).length ≤ s.src.cap := by
      rw [hazardBytes_length]
      exact bufAccess_le hok
    exact ⟨hs.status.congr rfl rfl, hs.faults.srcWriteHazard t, Memory.write_wf hs.src hfits, hs.dst⟩

theorem resetStep_inv {s : State} (hs : s.Inv) : (resetStep s).Inv :=
  ⟨.of_reset rfl rfl, hs.faults.congr rfl rfl rfl, Memory.cleared_wf hs.src, Memory.cleared_wf hs.dst⟩

theorem errorCompletion_inv {s : State} (hs : s.Inv) (e : CmdError) : (errorCompletion e s).Inv where
  status := .of_errorStatus hs.status.reserved (errorCompletion_seq e s) (errorCompletion_status e s)
  faults := hs.faults.congr (errorCompletion_faults e s) (errorCompletion_hostStopped e s)
    (errorCompletion_engineStopped e s)
  src := errorCompletion_src e s ▸ hs.src
  dst := errorCompletion_dst e s ▸ hs.dst

theorem engineUnwrittenRead_inv {s : State} (hs : s.Inv) : (engineUnwrittenRead s).Inv :=
  ⟨hs.status.congr rfl rfl, .engineUnwrittenRead s, hs.src, hs.dst⟩

/-- R254: a successful completion stores inside DST. -/
theorem Completed.inv {i : Instr} {s t : State} (h : Completed i s t) (hs : s.Inv) : t.Inv := by
  obtain ⟨k, hk, -, -⟩ := h.status
  refine ⟨.of_okStatus hs.status.reserved h.seq hk, hs.faults.congr h.faults h.hostStopped h.engineStopped,
    h.src ▸ hs.src, ?_⟩
  obtain hdst | ⟨b, hb, -, hdst, -⟩ := h.dst
  · exact hdst ▸ hs.dst
  · exact hdst ▸ Memory.write_wf hs.dst (by omega)

/-- `complete_cases` of a completion at hand. -/
theorem complete_ends {s t : State} (h : complete s = .next t) :
    (∃ e, t = errorCompletion e s) ∨ t = engineUnwrittenRead s ∨ ∃ i, decode s.regs.cmd = .ok i ∧ Completed i s t := by
  obtain ⟨t', ht', hends⟩ := complete_cases s
  obtain rfl : t = t' := Host.Outcome.next.inj (h.symm.trans ht')
  exact hends

theorem complete_inv {s t : State} (hs : s.Inv) (h : complete s = .next t) : t.Inv := by
  obtain ⟨e, rfl⟩ | rfl | ⟨i, -, hdone⟩ := complete_ends h
  · exact errorCompletion_inv hs e
  · exact engineUnwrittenRead_inv hs
  · exact hdone.inv hs

/-- Settles O19: each kind of step keeps the invariant, whichever agent moves. -/
theorem everyStepKeepsTheInvariant : Obligations.EveryStepKeepsTheInvariant := by
  intro s t hs hst
  obtain ⟨tr, rest, -, -, heffect⟩ | ⟨n, rest, -, -, rfl⟩ | ⟨rest, -, rfl⟩ | ⟨rest, -, hcomplete⟩ | ⟨-, rest, -, rfl⟩ :=
    step_cases hst
  · exact heffect.inv (hs.withInputs rest)
  · exact hs.congr rfl rfl rfl rfl rfl rfl rfl
  · exact resetStep_inv (hs.withInputs rest)
  · exact complete_inv (hs.withInputs rest) hcomplete
  · exact hs.withInputs rest

/-- Settles O20: at launch STATUS is 0, no agent is stopped and no cell is listed, whatever the capacities are. -/
theorem launchMeetsTheInvariant : Obligations.LaunchMeetsTheInvariant :=
  ⟨.of_reset rfl rfl, ⟨by simp [State.reset], nofun⟩, Memory.empty_wf Config.srcCap.isLt,
    Memory.empty_wf Config.dstCap.isLt⟩

end Sys2Proof.Machine
end

section
/-! Words and lengths (30_encoding.md R113, R132, R133; 40_padding.md R154): the command decode table, the packer as the
parser's inverse, and the page count. -/

namespace Sys2Proof.Machine

/-- Settles O1, by evaluating the decoder on the eleven words. -/
theorem decodesTheListedWords : Obligations.DecodesTheListedWords := by
  unfold Obligations.DecodesTheListedWords
  decide

/-- R13: byte k of a word. -/
theorem le32_getElem? (v : Word) {k : Nat} (hk : k < 4) : (le32 v)[k]? = some (v.extractLsb' (8 * k) 8) := by
  have hcases : k = 0 ∨ k = 1 ∨ k = 2 ∨ k = 3 := by omega
  rcases hcases with rfl | rfl | rfl | rfl <;> rfl

/-- R13: the bytes of the word read at `o` are the four bytes there. -/
theorem le32_rdle32 {b : Bytes} {o : Nat} (h : o + 4 ≤ b.length) : le32 (rdle32 b o) = (b.drop o).take 4 := by
  apply List.ext_getElem?
  intro k
  by_cases hk : k < 4
  · rw [le32_getElem? _ hk, rdle32_extractLsb' _ _ hk, List.getElem?_take_of_lt hk, List.getElem?_drop,
      getElem?_eq_byteAt (by omega)]
  · rw [List.getElem?_eq_none (by rw [le32_length]; omega), List.getElem?_take_eq_none (by omega)]

/-- Two neighbouring ranges of a sequence are one range. -/
theorem take_drop_append_take_drop (b : Bytes) (o m n : Nat) :
    (b.drop o).take m ++ (b.drop (o + m)).take n = (b.drop o).take (m + n) := by
  rw [List.take_add, List.drop_drop]

/-- Settles O4: each field of the parsed header packs to the range it was read from, and the ranges lie side by side. -/
theorem packerInvertsParser : Obligations.PackerInvertsParser := by
  intro b hb
  have hword {o : Nat} (ho : o ≤ 32) : le32 (rdle32 b o) = (b.drop o).take 4 := le32_rdle32 (by omega)
  have hiv : (block16At b 16).toList = (b.drop 16).take 16 := block16At_toList (by omega)
  simp only [packHeader, parseHeader, hword, hiv, Nat.reduceLeDiff, Nat.zero_le]
  rw [take_drop_append_take_drop b 0 4 4, take_drop_append_take_drop b 0 8 4, take_drop_append_take_drop b 0 12 4,
    take_drop_append_take_drop b 0 16 16, take_drop_append_take_drop b 0 32 4, List.drop_zero]

/-- R150: the padded length in closed form. -/
theorem padLen_eq (n : Nat) : padLen n = (n + 1023) / 1024 * 1024 := by
  have hmod := padLen_mod n
  have hle := le_padLen n
  have hlt := padLen_lt n
  omega

/-- Settles O8, from the closed form of the padded length. -/
theorem pagesRoundUp : Obligations.PagesRoundUp := by
  intro n
  simp only [pages, padLen_eq, pageSize]
  omega

end Sys2Proof.Machine
end

section
/-! The step (20_memory.md R92, 45_control.md R251, 70_reset_and_hazards.md R300, R304): runs of several steps, the
ENGINE's turn, what a completion leaves alone, POLL, and what a step can do to FAULTS, ERROR, SRC and DST. -/

namespace Sys2Proof.Machine

/-! ### Runs -/

theorem steps_succ {s t : State} (h : step s = .next t) (n : Nat) : steps (n + 1) s = steps n t := by
  simp [steps, h]

theorem steps_one (s : State) : steps 1 s = step s := by
  cases h : step s <;> simp [steps, h]

/-- A run goes on from the state its first part ends in. -/
theorem steps_add {m : Nat} {s t : State} (h : steps m s = .next t) (n : Nat) : steps (m + n) s = steps n t := by
  induction m generalizing s with
  | zero =>
    obtain rfl := Host.Outcome.next.inj h
    rw [Nat.zero_add]
  | succ m ih =>
    cases hstep : step s with
    | next v =>
      rw [steps_succ hstep] at h
      rw [Nat.add_right_comm, steps_succ hstep, ih h]
    | fault r => simp [steps, hstep] at h
    | refused r => simp [steps, hstep] at h

/-! ### Whose turn it is -/

theorem step_of_nil {s : State} (h : s.inputs = []) : step s = engineTurn s := by
  simp [step, h]

theorem step_of_cons {s : State} {i : Input} {rest : List Input} (h : s.inputs = i :: rest) :
    step s = inputTurn i { s with inputs := rest } := by
  simp [step, h]

/-- With no input left an idle block stays as it is, for every number of steps. -/
theorem steps_idle {s : State} (hseq : s.seq = .idle) (hin : s.inputs = []) (n : Nat) : steps n s = .next s := by
  induction n with
  | zero => rfl
  | succ n ih =>
    have hstep : step s = .next s := by simp [step_of_nil hin, engineTurn, hseq]
    rw [steps_succ hstep, ih]

/-- Settles O13: the reset leaves an idle block with no input to come. -/
theorem resetDropsTheRunningCommand : Obligations.ResetDropsTheRunningCommand := by
  intro s n _ hin
  exact ⟨_, (steps_succ (step_reset hin) n).trans (steps_idle rfl rfl n), rfl, rfl, rfl, rfl, s.dst.cleared_get,
    s.src.cleared_get⟩

/-- Settles O14: the ENGINE's step is the completion, which runs the instruction the word decodes to. -/
theorem stepRunsTheDecodedCommand : Obligations.StepRunsTheDecodedCommand := by
  intro s rest i hdue hcmd
  rw [step_engineDue hdue]
  simp [complete, hcmd]

/-- Settles O15: the placed word makes the ENGINE due. -/
theorem fetchWordRunsNext : Obligations.FetchWordRunsNext := by
  intro s w i hcmd
  have hword : BitVec.ofNat 32 (w % 2 ^ 32) = BitVec.ofNat 32 w := by
    apply BitVec.eq_of_toNat_eq
    simp only [BitVec.toNat_ofNat, Nat.mod_mod]
  have hdue : (s.withFetchWord 32 w).engineDue s.inputs := ⟨rfl, rfl, .inl rfl⟩
  rw [stepRunsTheDecodedCommand _ _ i hdue (by rwa [State.withFetchWord, hword]), State.withFetchWord, hword]
  rfl

/-- R304: the ENGINE's turn has no next state exactly while a command runs and a fault has stopped the ENGINE. -/
theorem engineTurn_cases (s : State) :
    (s.engineStopped = true ∧ s.seq = .busy ∧ engineTurn s = .fault .engineStopped)
    ∨ (¬ (s.engineStopped = true ∧ s.seq = .busy) ∧ ∃ t, engineTurn s = .next t) := by
  obtain ⟨t, ht, -⟩ := complete_cases s
  cases hseq : s.seq <;> cases hstopped : s.engineStopped <;> simp [engineTurn, hseq, hstopped, ht]

/-- Settles O16, by whose turn it is: HOST and ENGINE stop when a fault has stopped them, a reset never does. -/
theorem stepStopsOnlyForAStoppedAgent : Obligations.StepStopsOnlyForAStoppedAgent := by
  intro s
  cases hin : s.inputs with
  | nil =>
    rw [step_of_nil hin]
    obtain ⟨hstopped, hseq, hturn⟩ | ⟨hgoes, t, hturn⟩ := engineTurn_cases s
    · simp [hturn, hstopped, hseq]
    · simpa [hturn] using hgoes
  | cons i rest =>
    rw [step_of_cons hin]
    cases i with
    | access tr => cases s.hostStopped <;> simp [inputTurn, hostTurn]
    | poll n => cases s.hostStopped <;> simp [inputTurn, pollTurn]
    | engine =>
      simp only [inputTurn]
      obtain ⟨hstopped, hseq, hturn⟩ | ⟨hgoes, t, hturn⟩ := engineTurn_cases { s with inputs := rest }
      · simpa [hturn] using And.intro hstopped hseq
      · simpa [hturn] using hgoes
    | reset => simp [inputTurn]

/-! ### The completion -/

/-- R254, R280: every completion leaves the block idle with DONE set, and nothing outside the command's outputs
changed. -/
theorem complete_idle_or_faulted {s t : State} (h : complete s = .next t) :
    (t.seq = .idle ∧ statusBusy t.regs.status = false ∧ statusDone t.regs.status = true ∧ SameOutside s t)
    ∨ t = engineUnwrittenRead s := by
  obtain ⟨e, rfl⟩ | rfl | ⟨i, -, hdone⟩ := complete_ends h
  · refine .inl ⟨errorCompletion_seq e s, ?_, ?_, errorCompletion_sameOutside e s⟩ <;>
      simp [errorStatus]
  · exact .inr rfl
  · obtain ⟨k, hk, -, -⟩ := hdone.status
    refine .inl ⟨hdone.seq, ?_, ?_, hdone.sameOutside⟩ <;> simp [hk, okStatus]

/-- Settles O17: the ENGINE's step is the completion. -/
theorem oneCompletionFollowsEachIssue : Obligations.OneCompletionFollowsEachIssue := by
  intro s rest hdue
  obtain ⟨t, ht, -⟩ := complete_cases { s with inputs := rest }
  refine ⟨t, (step_engineDue hdue).trans ht, ?_⟩
  obtain ⟨hseq, hbusy, hdone, -, -, hfaults, -, hengine, hin, -⟩ | rfl := complete_idle_or_faulted ht
  · exact ⟨hin, .inl ⟨hseq, hbusy, hdone, hengine.trans hdue.2.1, hfaults⟩⟩
  · exact ⟨rfl, .inr rfl⟩

/-! ### POLL -/

/-- R142: while BUSY is 1 a POLL goes on, and changes nothing but the answer. -/
theorem steps_poll {s : State} {n : Nat} {rest : List Input} (hhost : s.hostStopped = false)
    (hin : s.inputs = .poll n :: rest) (hbusy : statusBusy s.regs.status = true) {k : Nat} (hk : k ≤ n) :
    steps k s = .next { s with
      inputs := .poll (n - k) :: rest
      response := if k = 0 then s.response else some ⟨some s.regs.status, false⟩ } := by
  induction k with
  | zero => simp [steps, ← hin]
  | succ k ih =>
    obtain ⟨j, hj⟩ : ∃ j, n - k = j + 1 := ⟨n - k - 1, by omega⟩
    have hj' : n - (k + 1) = j := by omega
    rw [steps_add (ih (by omega)), steps_one, step_poll (by exact hhost) (by rfl), hj, hj']
    simp [hbusy, pollLoop]

/-- R142: the last read of a POLL before the ENGINE's turn. -/
theorem steps_poll_to_engine {s : State} {n : Nat} {rest : List Input} (hhost : s.hostStopped = false)
    (hin : s.inputs = .poll n :: rest) (hbusy : statusBusy s.regs.status = true) :
    steps (n + 1) s = .next { s with
      inputs := .engine :: .poll 0 :: rest
      response := some ⟨some s.regs.status, false⟩ } := by
  rw [steps_add (steps_poll hhost hin hbusy n.le_refl), steps_one, step_poll (by exact hhost) (by rfl), Nat.sub_self]
  simp [hbusy, pollLoop]

/-- R142, R304: a POLL of a command whose ENGINE has been stopped comes to the ENGINE's turn and no further. -/
theorem steps_poll_of_engineStopped {s : State} {rest : List Input} (hhost : s.hostStopped = false)
    (hin : s.inputs = .poll 0 :: rest) (hbusy : statusBusy s.regs.status = true) (hseq : s.seq = .busy)
    (hstopped : s.engineStopped = true) : steps 2 s = .fault .engineStopped := by
  rw [steps_add (steps_poll_to_engine hhost hin hbusy) 1, steps_one]
  simp [step, inputTurn, engineTurn, hseq, hstopped]

/-- Single reads of STATUS change nothing but the answer. -/
theorem steps_read_status {s : State} (hhost : s.hostStopped = false) {n : Nat}
    (hin : s.inputs = script (List.replicate n (hostRD .status))) :
    steps n s = .next { s with
      inputs := []
      response := if n = 0 then s.response else some ⟨some s.regs.status, false⟩ } := by
  induction n generalizing s with
  | zero =>
    have hnil : s.inputs = [] := hin
    simp [steps, ← hnil]
  | succ n ih =>
    have hdue : s.hostDue (hostRD .status) (script (List.replicate n (hostRD .status))) := ⟨hhost, hin⟩
    rw [steps_succ (step_hostDue hdue), hostAccess_hostRD_status, ih (by exact hhost) (by rfl)]
    simp

/-- R250: a write of CMD while no command runs is an issue. -/
theorem hostAccess_hostWR_cmd {s : State} (hseq : s.seq = .idle) (w : Word) :
    hostAccess (hostWR .cmd w) s = answerDone (issue w s) := by
  simp [hostAccess_hostWR, regWrite, hseq, regAt_of_offset]

/-- R250: the step of such a write. -/
theorem step_issue {s : State} {w : Word} {rest : List Input} (hseq : s.seq = .idle) (hhost : s.hostStopped = false)
    (hin : s.inputs = .access (hostWR .cmd w) :: rest) :
    step s = .next { issue w s with inputs := rest, response := some ⟨none, false⟩ } := by
  rw [step_hostDue ⟨hhost, hin⟩, hostAccess_hostWR_cmd (by exact hseq)]
  rfl

/-- Settles O18: a POLL leaves the machine as it was but for the answer, so the completion inside it starts from the
state the POLL found; what follows is decided by the BUSY that the completion leaves. -/
theorem polledCommandCompletes : Obligations.PolledCommandCompletes := by
  refine ⟨fun s n rest hhost hin => ⟨fun hbusy => ?_, fun hbusy k hk => steps_poll hhost hin hbusy hk⟩, ?_, ?_, ?_⟩
  · simp [step_poll hhost hin, hbusy]
  · intro s n rest hs hseq hhost hengine hin
    have hpolls := steps_poll_to_engine hhost hin (hs.status.busy_iff.2 hseq)
    obtain ⟨u, hu, -⟩ := complete_cases { s with
      inputs := hostPOLL 0 ++ rest
      response := some ⟨some s.regs.status, false⟩ }
    have hrun : steps (n + 2) s = .next u := by
      rw [steps_add hpolls 1, steps_one]
      exact Eq.trans (step_engineDue ⟨hseq, hengine, .inl rfl⟩) hu
    refine ⟨u, hu, hrun, ?_⟩
    obtain ⟨-, hidle, -, -, -, -, hhost', hengine', hin', -⟩ | rfl := complete_idle_or_faulted hu
    · refine ⟨fun _ => ⟨hidle, ?_⟩, fun hstopped => ?_⟩
      · rw [steps_add hrun 1, steps_one, step_poll (hhost'.trans hhost) hin']
        simp [hidle]
      · simp [hengine', hengine] at hstopped
    · exact ⟨nofun, fun _ => (steps_add hrun 2).trans
        (steps_poll_of_engineStopped hhost rfl (hs.status.busy_iff.2 hseq) hseq rfl)⟩
  · intro s i n rest hseq hhost hin
    exact step_issue hseq hhost hin
  · intro s i n hseq hhost hengine hcmd hin
    rw [steps_add (steps_read_status hhost hin), steps_one]
    exact stepRunsTheDecodedCommand _ [] i ⟨hseq, hengine, .inr ⟨rfl, rfl⟩⟩ hcmd

end Sys2Proof.Machine
end

section
/-! What a step can do to FAULTS, ERROR, SRC and DST (10_state.md R57, R58, R60; 60_exceptions.md R282): the four
statements are read off the ways `step_cases` lists. -/

namespace Sys2Proof.Machine

/-- R60, R304, R311: a step leaves FAULTS as it was, or records an UnwrittenRead of the agent that moved, or a SRC write
while a command runs. -/
theorem step_faults {s t : State} (h : step s = .next t) :
    t.faults = s.faults
    ∨ (t.faults = { s.faults with unwrittenRead := true }
        ∧ ((s.hostStopped = false ∧ t.hostStopped = true) ∨ (s.engineStopped = false ∧ t.engineStopped = true)))
    ∨ (t.faults = { s.faults with srcWriteWhileBusy := true } ∧ s.seq = .busy ∧ t.hostStopped = true
        ∧ ∃ tr rest, s.hostDue tr rest ∧ tr.dir = .write ∧ tr.space = .src) := by
  obtain ⟨tr, rest, hin, hhost, heffect⟩ | ⟨n, rest, -, -, rfl⟩ | ⟨rest, -, rfl⟩ | ⟨rest, hdue, hcomplete⟩
    | ⟨-, rest, -, rfl⟩ := step_cases h
  · cases heffect with
    | answered r h => exact .inl (h ▸ rfl)
    | issued w _ _ h => exact .inl (h ▸ rfl)
    | stored n _ _ _ h => exact .inl (h ▸ rfl)
    | unwritten h => exact .inr (.inl (h ▸ ⟨rfl, .inl ⟨hhost, rfl⟩⟩))
    | srcStored _ _ _ h => exact .inl (h ▸ rfl)
    | hazard hbusy hd _ h => exact .inr (.inr (h ▸ ⟨rfl, hbusy, rfl, tr, rest, ⟨hhost, hin⟩, hd⟩))
  · exact .inl rfl
  · exact .inl rfl
  · obtain ⟨-, -, -, -, -, hfaults, -⟩ | rfl := complete_idle_or_faulted hcomplete
    · exact .inl hfaults
    · exact .inr (.inl ⟨rfl, .inr ⟨hdue.2.1, rfl⟩⟩)
  · exact .inl rfl

/-- Settles O21: in each of the three cases of `step_faults`, a member of FAULTS can only be set. -/
theorem faultsAreNeverCleared : Obligations.FaultsAreNeverCleared := by
  intro s t hst
  obtain hsame | ⟨hunwritten, hstops⟩ | ⟨hhazard, hcause⟩ := step_faults hst
  · simp +contextual [hsame]
  · simp +contextual [hunwritten, hstops]
  · obtain ⟨hseq, hhost, hdue⟩ := hcause
    exact ⟨fun h => by rwa [hhazard], fun _ => by rw [hhazard], fun h h' => by simp [hhazard, h] at h',
      fun _ _ => ⟨hseq, hhost, hdue⟩⟩

/-- Settles O22: a command that runs has no error to lose, and no host access but an issue touches ERROR. -/
theorem errorStandsUntilIssueOrReset : Obligations.ErrorStandsUntilIssueOrReset := by
  intro s t hs hst herr hclear
  have hkeeps (hsame : t.regs.status = s.regs.status) : False := by simp [hsame, herr] at hclear
  obtain ⟨tr, rest, hin, hhost, heffect⟩ | ⟨n, rest, -, -, rfl⟩ | ⟨rest, hin, -⟩ | ⟨rest, hdue, -⟩
    | ⟨-, rest, -, rfl⟩ := step_cases hst
  · cases heffect with
    | answered r h => exact (hkeeps (h ▸ rfl)).elim
    | issued w hw hseq h =>
      obtain ⟨hdir, hspace, hoffset, hdata⟩ := hw
      exact .inl (h ▸ ⟨hseq, rfl, tr, rest, ⟨hhost, hin⟩, hdir, hspace, BitVec.eq_of_toNat_eq hoffset, hdata.symm⟩)
    | stored n _ _ hn h => exact (hkeeps (h ▸ Regs.set_status hn.1)).elim
    | unwritten h => exact (hkeeps (h ▸ rfl)).elim
    | srcStored _ _ _ h => exact (hkeeps (h ▸ rfl)).elim
    | hazard _ _ _ h => exact (hkeeps (h ▸ rfl)).elim
  · exact (hkeeps rfl).elim
  · exact .inr ⟨rest, hin⟩
  · have hnone := (hs.status.busy_clear hdue.1).1
    simp [hnone] at herr
  · exact (hkeeps rfl).elim

/-- Settles O23: an access that stores in SRC, regular or hazardous, is a host write to SRC. -/
theorem onlyTheHostWritesSrc : Obligations.OnlyTheHostWritesSrc := by
  intro s t hst
  have hkept {P : Prop} (hsame : t.src = s.src) : t.src.cap = s.src.cap ∧ (t.src = s.src ∨ P) :=
    ⟨by rw [hsame], .inl hsame⟩
  obtain ⟨tr, rest, hin, hhost, heffect⟩ | ⟨n, rest, -, -, rfl⟩ | ⟨rest, hin, rfl⟩ | ⟨rest, -, hcomplete⟩
    | ⟨-, rest, -, rfl⟩ := step_cases hst
  · cases heffect with
    | answered r h => exact hkept (h ▸ rfl)
    | issued w _ _ h => exact hkept (h ▸ rfl)
    | stored n _ _ _ h => exact hkept (h ▸ rfl)
    | unwritten h => exact hkept (h ▸ rfl)
    | srcStored _ hd _ h => exact ⟨h ▸ rfl, .inr (.inl ⟨tr, rest, ⟨hhost, hin⟩, hd⟩)⟩
    | hazard _ hd _ h => exact ⟨h ▸ rfl, .inr (.inl ⟨tr, rest, ⟨hhost, hin⟩, hd⟩)⟩
  · exact hkept rfl
  · exact ⟨rfl, .inr (.inr ⟨rest, hin⟩)⟩
  · obtain ⟨-, -, -, hsrc, -⟩ | rfl := complete_idle_or_faulted hcomplete
    · exact hkept hsrc
    · exact hkept rfl
  · exact hkept rfl

/-- R57, R58: no host access touches DST. -/
theorem HostEffect.dst_eq {t : Transaction} {s s' : State} (h : HostEffect t s s') : s'.dst = s.dst := by
  cases h with
  | answered r h => rw [h]
  | issued w _ _ h => rw [h]; rfl
  | stored n _ _ _ h => rw [h]; rfl
  | unwritten h => rw [h]; rfl
  | srcStored _ _ _ h => rw [h]; rfl
  | hazard _ _ _ h => rw [h]; rfl

/-- R14: a store from offset 0 leaves the cells behind its bytes. -/
theorem Memory.get_write_zero_of_le {m : Memory} {b : Bytes} {a : Nat} (h : b.length ≤ a) :
    (m.write 0 b).get a = m.get a := by
  rw [Memory.get_write, if_neg (by omega)]

/-- R58: a completion leaves DST as it was unless it is a success of CREATE, RECOVER or PAD, which stores OUT_LEN
bytes. -/
theorem complete_dst {s t : State} (hcap : s.dst.cap < 2 ^ 32) (h : complete s = .next t) :
    t.dst = s.dst ∨ ∃ i, decode s.regs.cmd = .ok i ∧ (i = .create ∨ i = .recover ∨ i = .pad) ∧ Completed i s t
      ∧ ∀ a, t.regs.outLen.toNat ≤ a → t.dst.get a = s.dst.get a := by
  obtain ⟨e, rfl⟩ | rfl | ⟨i, hi, hdone⟩ := complete_ends h
  · exact .inl (errorCompletion_dst e s)
  · exact .inl rfl
  · obtain hdst | ⟨b, hb, hout, hdst, hwrites⟩ := hdone.dst
    · exact .inl hdst
    · refine .inr ⟨i, hi, hwrites, hdone, fun a ha => ?_⟩
      rw [hout, toWord_toNat (hb.trans_lt hcap)] at ha
      rw [hdst, Memory.get_write_zero_of_le ha]

/-- Settles O24: of the ways a step can go, only a reset and a successful completion touch DST. -/
theorem onlyASuccessfulCompletionWritesDst : Obligations.OnlyASuccessfulCompletionWritesDst := by
  intro s t hs hst
  have hkept {P : Prop} (hsame : t.dst = s.dst) : t.dst.cap = s.dst.cap ∧ (t.dst = s.dst ∨ P) :=
    ⟨by rw [hsame], .inl hsame⟩
  obtain ⟨tr, rest, -, -, heffect⟩ | ⟨n, rest, -, -, rfl⟩ | ⟨rest, hin, rfl⟩ | ⟨rest, hdue, hcomplete⟩
    | ⟨-, rest, -, rfl⟩ := step_cases hst
  · exact hkept heffect.dst_eq
  · exact hkept rfl
  · exact ⟨rfl, .inr (.inl ⟨rest, hin⟩)⟩
  · obtain hdst | ⟨i, hi, hwrites, hdone, hframe⟩ :=
      complete_dst (s := { s with inputs := rest }) hs.dst.2.2 hcomplete
    · exact hkept hdst
    · obtain ⟨k, hk, -, -⟩ := hdone.status
      obtain ⟨-, hcap, -⟩ := hdone.sameOutside
      refine ⟨hcap, .inr (.inr ⟨rest, i, hdue, hi, hwrites, hdone.seq, ?_, hdone.error_eq_false, hframe⟩)⟩
      rw [hk]
      exact writeStatus_done ..
  · exact hkept rfl

end Sys2Proof.Machine
end

section
/-! The host port (20_memory.md R82 to R94, 45_control.md R250, 70_reset_and_hazards.md R310): the register map as
reads and writes see it, what a bus error leaves, and the statements about single accesses to REG. -/

namespace Sys2Proof.Machine

/-! ### The register map -/

theorem RegName.rights_eq_wo_iff {n : RegName} :
    n.rights = .wo ↔ n = .key0 ∨ n = .key1 ∨ n = .key2 ∨ n = .key3 := by
  cases n <;> decide

/-- R82, R53: what the host reads at a register's offset. -/
theorem Regs.hostRead_offset (r : Regs) (n : RegName) :
    r.hostRead n.offset.toNat = if n.rights = .wo then 0#32 else r.get n := by
  simp only [Regs.hostRead, regAt_of_offset]
  rfl

/-- R32, R55: the offsets of REG that hold no register. -/
def ReservedOffset (o : Word) : Prop :=
  o = 0x38#32 ∨ o = 0x3C#32 ∨ (0x60 ≤ o.toNat ∧ o.toNat ≤ 0xFC ∧ o.toNat % 4 = 0)

/-- The last register of the map is IV3 at 0x5C, and 0x38 and 0x3C are the gap before KEY0. -/
theorem ReservedOffset.regAt_eq_none {o : Word} (h : ReservedOffset o) : regAt o.toNat = none := by
  obtain rfl | rfl | ⟨hlo, -, -⟩ := h
  · rfl
  · rfl
  · cases hreg : regAt o.toNat with
    | none => rfl
    | some n =>
      have hlast : n.offset.toNat ≤ 0x5C := by cases n <;> decide
      rw [regAt_offset hreg] at hlast
      omega

theorem ReservedOffset.aligned {o : Word} (h : ReservedOffset o) : o.toNat % 4 = 0 ∧ o.toNat < 256 := by
  obtain rfl | rfl | ⟨-, hhi, h4⟩ := h
  · decide
  · decide
  · exact ⟨h4, by omega⟩

/-- Storing a register leaves every other one: each pair of registers is a pair of fields, or excluded by `h`. -/
theorem Regs.get_set_of_ne {r : Regs} {n k : RegName} {v : Word} (h : k ≠ n) : (r.set n v).get k = r.get k := by
  cases n <;> cases k <;> first | rfl | exact absurd rfl h

/-- R33, R34: every register but the two constant ones takes a stored value. -/
theorem Regs.get_set_self {r : Regs} {n : RegName} {v : Word} (hg : n ≠ .geometry) (hc : n ≠ .cryptoGeometry) :
    (r.set n v).get n = v := by
  cases n with
  | geometry => exact absurd rfl hg
  | cryptoGeometry => exact absurd rfl hc
  | _ => rfl

/-! ### Register writes -/

/-- R310: while a command runs a register write is ignored. -/
theorem regWrite_of_busy {s : State} (hseq : s.seq = .busy) (o : Nat) (v : Word) : regWrite o v s = s := by
  simp [regWrite, hseq]

theorem regWrite_of_reserved {s : State} {o : Word} (h : ReservedOffset o) (v : Word) : regWrite o.toNat v s = s := by
  cases hseq : s.seq <;> simp [regWrite, hseq, h.regAt_eq_none]

/-- R56: a write of a read-only register is ignored. -/
theorem regWrite_of_ro {s : State} {n : RegName} (hro : n.rights = .ro) (v : Word) :
    regWrite n.offset.toNat v s = s := by
  have hcmd : n ≠ .cmd := by rintro rfl; cases hro
  cases hseq : s.seq <;> simp [regWrite, hseq, regAt_of_offset, hro]

/-- R82: a write of any other register but CMD, while no command runs, stores its value. -/
theorem regWrite_of_stored {s : State} {n : RegName} (hseq : s.seq = .idle) (hro : n.rights ≠ .ro) (hcmd : n ≠ .cmd)
    (v : Word) : regWrite n.offset.toNat v s = { s with regs := s.regs.set n v } := by
  simp [regWrite, hseq, regAt_of_offset, hro]

/-! ### Accesses -/

/-- R82: an aligned word access inside the space is accepted. -/
theorem regAccessOk_of_aligned {t : Transaction} (hwidth : t.width = 4) (h4 : t.offset.toNat % 4 = 0)
    (hlt : t.offset.toNat < 256) : regAccessOk t = true :=
  decide_eq_true ⟨hwidth, h4, hlt⟩

/-- R82: what an accepted REG access does. -/
theorem hostAccess_reg {s : State} {t : Transaction} (hspace : t.space = .reg) (hok : regAccessOk t = true) :
    hostAccess t s = match t.dir with
      | .read => answerData (s.regs.hostRead t.offset.toNat) s
      | .write => answerDone (regWrite t.offset.toNat t.data s) := by
  have haccess : accessOk s t = true := by simpa [accessOk, hspace] using hok
  cases hdir : t.dir <;> simp [hostAccess, haccess, hspace, hdir]

/-- R85. -/
theorem hostAccess_of_not_ok {s : State} {t : Transaction} (h : accessOk s t = false) :
    hostAccess t s = busError t s :=
  if_pos h

/-- R250: the fields of STATUS after an issue. -/
theorem issueStatus_statusIs (old : Word) : StatusIs old (issueStatus old) true false false false 0#4 :=
  ⟨writeStatus_busy .., writeStatus_done .., writeStatus_error .., writeStatus_iok .., writeStatus_code ..,
    writeStatus_reserved ..⟩

/-- Settles O25: while idle the write is an issue, while busy it is ignored. -/
theorem issueStartsACommand : Obligations.IssueStartsACommand := by
  intro s w rest hdue
  rw [step_hostDue hdue]
  constructor
  · intro hseq
    rw [hostAccess_hostWR_cmd (by exact hseq)]
    exact ⟨_, rfl, issueStatus_statusIs _, rfl⟩
  · intro hseq
    rw [hostAccess_hostWR, regWrite_of_busy (by exact hseq)]
    rfl

/-- Settles O26: each of the four shapes fails the check of its space, and a bus error writes the answer only. -/
theorem unacceptedAccessIsABusError : Obligations.UnacceptedAccessIsABusError := by
  intro s t rest hdue hshape
  have hok : accessOk { s with inputs := rest } t = false := by
    obtain ⟨hspace, h⟩ | ⟨hspace, hbyte, hword⟩ | ⟨hspace, hdir, hbyte, hword⟩ | ⟨hspace, hdir⟩ := hshape
    · simp only [accessOk, hspace]
      exact decide_eq_false h
    · simp only [accessOk, hspace]
      exact decide_eq_false (not_or.2 ⟨hbyte, hword⟩)
    · simp only [accessOk, hspace, hdir]
      exact decide_eq_false (not_or.2 ⟨hbyte, hword⟩)
    · simp only [accessOk, hspace, hdir]
  rw [step_hostDue hdue, hostAccess_of_not_ok hok]
  constructor <;> intro hdir <;> simp [busError, hdir]

/-- Settles O27: a named offset reads as its register unless that is write-only, and a reserved one as 0. -/
theorem registerReadsFollowTheMap : Obligations.RegisterReadsFollowTheMap := by
  intro s rest
  refine ⟨fun n hdue => ?_, rfl, rfl, fun o hreserved hdue => ?_⟩
  · rw [step_hostDue hdue, hostAccess_hostRD, Regs.hostRead_offset]
    simp only [RegName.rights_eq_wo_iff]
    rfl
  · have hreserved : ReservedOffset o := hreserved
    rw [step_hostDue hdue,
      hostAccess_reg rfl (regAccessOk_of_aligned rfl hreserved.aligned.1 hreserved.aligned.2)]
    simp [Regs.hostRead, hreserved.regAt_eq_none, answerData]

/-- Settles O28: the registers of the first list are the writable ones but CMD, those of the second the read-only
ones. -/
theorem registerWritesFollowTheMap : Obligations.RegisterWritesFollowTheMap := by
  intro s v rest hseq
  refine ⟨fun n hdue => ⟨fun hn => ?_, fun hn => ?_⟩, fun o hreserved hdue => ?_⟩
  · have hstores : n.rights ≠ .ro ∧ n ≠ .cmd ∧ n ≠ .geometry ∧ n ≠ .cryptoGeometry := by
      rcases hn with rfl | rfl | rfl | rfl | rfl | rfl | rfl | rfl | rfl <;> decide
    obtain ⟨hro, hcmd, hg, hc⟩ := hstores
    rw [step_hostDue hdue, hostAccess_hostWR, regWrite_of_stored (by exact hseq) hro hcmd]
    exact ⟨_, rfl, Regs.get_set_self hg hc, fun k hk => Regs.get_set_of_ne hk, rfl⟩
  · have hro : n.rights = .ro := by
      rcases hn with rfl | rfl | rfl | rfl | rfl | rfl | rfl | rfl | rfl | rfl | rfl | rfl <;> rfl
    rw [step_hostDue hdue, hostAccess_hostWR, regWrite_of_ro hro]
    rfl
  · have hreserved : ReservedOffset o := hreserved
    rw [step_hostDue hdue,
      hostAccess_reg rfl (regAccessOk_of_aligned rfl hreserved.aligned.1 hreserved.aligned.2)]
    simp [regWrite_of_reserved hreserved, answerDone]

/-- Settles O29: of the effects an access can have, a running command leaves an answer, an UnwrittenRead and the hazard,
none of which writes a register. -/
theorem registersHoldWhileBusy : Obligations.RegistersHoldWhileBusy := by
  intro s tr rest hseq hdue
  rw [step_hostDue hdue]
  refine ⟨⟨_, rfl, ?_⟩, fun hspace hdir hwidth h4 hlt => ?_, fun n hn => ?_⟩
  · have hnotIdle (hidle : s.seq = .idle) : False := by simp [hseq] at hidle
    cases hostAccess_effect tr { s with inputs := rest } with
    | answered r h => exact h ▸ ⟨rfl, hseq, rfl⟩
    | issued _ _ hidle _ => exact (hnotIdle hidle).elim
    | stored _ hidle _ _ _ => exact (hnotIdle hidle).elim
    | unwritten h => exact h ▸ ⟨rfl, hseq, rfl⟩
    | srcStored hidle _ _ _ => exact (hnotIdle hidle).elim
    | hazard _ _ _ h => exact h ▸ ⟨rfl, hseq, rfl⟩
  · rw [hostAccess_reg hspace (regAccessOk_of_aligned hwidth h4 hlt), hdir]
    simp only [regWrite_of_busy (s := { s with inputs := rest }) hseq]
    rfl
  · subst hn
    rw [hostAccess_hostRD, Regs.hostRead_offset]
    rfl

/-- Settles O30: the other effects an access can have belong to writes. -/
theorem hostReadsChangeNothing : Obligations.HostReadsChangeNothing := by
  intro s tr rest hread hdue
  have hnotWrite (hwrite : tr.dir = .write) : False := by simp [hread] at hwrite
  refine ⟨_, step_hostDue hdue, ?_⟩
  cases hostAccess_effect tr { s with inputs := rest } with
  | answered r h => exact .inl ⟨r, h⟩
  | issued _ hw _ _ => exact (hnotWrite hw.1).elim
  | stored _ _ hd _ _ => exact (hnotWrite hd.1).elim
  | unwritten h => exact .inr h
  | srcStored _ hd _ _ => exact (hnotWrite hd.1).elim
  | hazard _ hd _ _ => exact (hnotWrite hd.1).elim

/-! ### The key bytes -/

theorem SameButKeyBytes.exists_eq {r q : Regs} (h : SameButKeyBytes r q) :
    ∃ k0 k1 k2 k3, q = { r with key0 := k0, key1 := k1, key2 := k2, key3 := k3 } :=
  ⟨_, _, _, _, h⟩

/-- R53: a host read of a KEY register returns 0, and of any other register not the key. -/
theorem SameButKeyBytes.hostRead_eq {r q : Regs} (h : SameButKeyBytes r q) (o : Nat) : q.hostRead o = r.hostRead o := by
  obtain ⟨k0, k1, k2, k3, rfl⟩ := h.exists_eq
  unfold Regs.hostRead
  cases regAt o with
  | none => rfl
  | some n => cases n <;> rfl

theorem SameButKeyBytes.set {r q : Regs} (h : SameButKeyBytes r q) (n : RegName) (v : Word) :
    SameButKeyBytes (r.set n v) (q.set n v) := by
  obtain ⟨k0, k1, k2, k3, rfl⟩ := h.exists_eq
  cases n <;> rfl

/-- The same state apart from the key bytes in KEY0 to KEY3. -/
def KeyTwins (t u : State) : Prop := SameButKeyBytes t.regs u.regs ∧ u = { t with regs := u.regs }

theorem KeyTwins.of_regs {s : State} {r : Regs} (h : SameButKeyBytes s.regs r) : KeyTwins s { s with regs := r } :=
  ⟨h, rfl⟩

theorem KeyTwins.exists_eq {t u : State} (h : KeyTwins t u) :
    ∃ r, SameButKeyBytes t.regs r ∧ u = { t with regs := r } :=
  ⟨_, h⟩

theorem KeyTwins.seq_eq {t u : State} (h : KeyTwins t u) : u.seq = t.seq := by rw [h.2]
theorem KeyTwins.src_eq {t u : State} (h : KeyTwins t u) : u.src = t.src := by rw [h.2]
theorem KeyTwins.dst_eq {t u : State} (h : KeyTwins t u) : u.dst = t.dst := by rw [h.2]
theorem KeyTwins.response_eq {t u : State} (h : KeyTwins t u) : u.response = t.response := by rw [h.2]

/-- What neither looks at the registers nor writes one keeps two such states. -/
theorem KeyTwins.map {t u : State} (h : KeyTwins t u) {f : State → State}
    (hregs : ∀ s, (f s).regs = s.regs) (hf : ∀ s r, f { s with regs := r } = { f s with regs := r }) :
    KeyTwins (f t) (f u) := by
  obtain ⟨r, hr, rfl⟩ := h.exists_eq
  refine ⟨?_, by rw [hf]⟩
  rwa [hregs, hregs]

theorem KeyTwins.busError {t u : State} (h : KeyTwins t u) (tr : Transaction) :
    KeyTwins (busError tr t) (busError tr u) :=
  h.map (busError_regs tr) fun s r => by unfold Machine.busError; split <;> rfl

theorem KeyTwins.bufRead {t u : State} (h : KeyTwins t u) (m : Memory) (tr : Transaction) :
    KeyTwins (bufRead m tr t) (bufRead m tr u) := by
  unfold Machine.bufRead
  split <;> exact h.map (fun _ => rfl) fun _ _ => rfl

/-- R53: a register write stores the same value in both, the KEY registers among them. -/
theorem KeyTwins.regWrite {t u : State} (h : KeyTwins t u) (o : Nat) (v : Word) :
    KeyTwins (regWrite o v t) (regWrite o v u) := by
  unfold Machine.regWrite
  rw [h.seq_eq]
  obtain ⟨r, hr, rfl⟩ := h.exists_eq
  split
  · exact h
  · split
    · exact h
    · obtain ⟨k0, k1, k2, k3, rfl⟩ := hr.exists_eq
      exact ⟨rfl, rfl⟩
    · split
      · exact h
      · exact ⟨hr.set _ v, rfl⟩

/-- R53: neither the answer to an access nor what it changes depends on the key bytes. -/
theorem KeyTwins.hostAccess {t u : State} (h : KeyTwins t u) (tr : Transaction) :
    KeyTwins (hostAccess tr t) (hostAccess tr u) := by
  have hok : accessOk u tr = accessOk t tr := by rw [h.2]; rfl
  unfold Machine.hostAccess
  rw [hok, h.seq_eq, h.src_eq, h.dst_eq, h.1.hostRead_eq]
  split
  · exact h.busError tr
  · split
    · exact h.map (answerData_regs _) fun _ _ => rfl
    · exact (h.regWrite _ _).map answerDone_regs fun _ _ => rfl
    · exact h.bufRead _ tr
    · split
      · exact h.map (srcWriteHazard_regs tr) fun _ _ => rfl
      · exact h.map (srcWrite_regs tr) fun _ _ => rfl
    · exact h.bufRead _ tr

/-- Settles O31: the two states start as twins, and an access keeps them so, the answer included. -/
theorem keyBytesCannotBeReadBack : Obligations.KeyBytesCannotBeReadBack := by
  intro s r tr rest hr hdue
  have htwins := (KeyTwins.of_regs (s := { s with inputs := rest }) hr).hostAccess tr
  exact ⟨_, _, step_hostDue hdue, step_hostDue hdue, htwins.response_eq.symm, htwins.1, htwins.2⟩

end Sys2Proof.Machine
end

section
/-! SRC and DST through the host port (20_memory.md R83 to R87, 30_encoding.md R142, 70_reset_and_hazards.md R304,
R311): bytes in and out, the hazard, and the scripts LDKEY and LDSRC. -/

namespace Sys2Proof.Machine

/-! ### Writes of SRC -/

/-- Settles O32: both writes end in `Memory.write`, with the bytes of the word and with the one byte. -/
theorem srcWritesAreLittleEndian : Obligations.SrcWritesAreLittleEndian := by
  intro s a rest hseq
  refine ⟨fun v hdue h4 hcap => ?_, fun b hdue hcap => ?_⟩
  · rw [step_hostDue hdue, hostAccess_hostSW (by exact hseq) h4 (by exact hcap)]
    refine ⟨_, rfl, fun x => ?_, rfl⟩
    rw [answerDone_src, Memory.get_write, le32_length]
    split
    · rw [le32_getElem? v (by omega)]
    · rfl
  · rw [step_hostDue hdue, hostAccess_hostSB (by exact hseq) (by exact hcap)]
    refine ⟨_, rfl, fun x => ?_, rfl⟩
    rw [answerDone_src, Memory.get_write]
    by_cases hx : x = a.toNat
    · simp [hx]
    · rw [if_neg (by simp; omega), if_neg hx]

theorem cellsFrom_append (a : Nat) (b c : Bytes) :
    cellsFrom a (b ++ c) = cellsFrom a b ++ cellsFrom (a + b.length) c := by
  induction b generalizing a with
  | nil => rfl
  | cons v b ih => simp [cellsFrom, ih, Nat.add_assoc, Nat.add_comm 1]

/-- The cells in front of the end of a write: those kept in front of it, and the ones written. -/
theorem Memory.write_cells_filter_lt (m : Memory) (a : Nat) (b : Bytes) :
    (m.write a b).cells.filter (fun c => decide (c.1 < a + b.length))
      = m.cells.filter (fun c => decide (c.1 < a)) ++ cellsFrom a b := by
  have hnew : (cellsFrom a b).filter (fun c => decide (c.1 < a + b.length)) = cellsFrom a b :=
    List.filter_eq_self.2 fun _ hc => decide_eq_true (mem_cellsFrom hc).2
  have hfront (c : Host.Cell) : (decide (c.1 < a + b.length) && decide (c.1 < a)) = decide (c.1 < a) := by
    simp; omega
  have hback (c : Host.Cell) : (decide (c.1 < a + b.length) && decide (a + b.length ≤ c.1)) = false := by simp
  simp [Memory.write, List.filter_filter, hnew, hfront, hback]

/-- The cells behind the end of a write are those that were there. -/
theorem Memory.write_cells_filter_ge (m : Memory) {a n : Nat} {b : Bytes} (h : a + b.length ≤ n) :
    (m.write a b).cells.filter (fun c => decide (n ≤ c.1)) = m.cells.filter (fun c => decide (n ≤ c.1)) := by
  have hnew : (cellsFrom a b).filter (fun c => decide (n ≤ c.1)) = [] :=
    List.filter_eq_nil_iff.2 fun _ hc => by simpa using (mem_cellsFrom hc).2.trans_le h
  have hfront (c : Host.Cell) : (decide (n ≤ c.1) && decide (c.1 < a)) = false := by
    simp; omega
  have hback (c : Host.Cell) : (decide (n ≤ c.1) && decide (a + b.length ≤ c.1)) = decide (n ≤ c.1) := by
    simp; omega
  simp [Memory.write, List.filter_filter, hnew, hfront, hback]

/-- Two writes side by side are one. -/
theorem Memory.write_write_append (m : Memory) (a : Nat) (b c : Bytes) :
    (m.write a b).write (a + b.length) c = m.write a (b ++ c) := by
  rw [Memory.write, Memory.write_cells_filter_lt, Memory.write_cells_filter_ge m (by omega)]
  simp [Memory.write, cellsFrom_append, Nat.add_assoc]

/-- R83, R141: the step of a byte write while no command runs. -/
theorem step_hostSB {s : State} {a : Word} {b : Byte} {rest : List Input} (hseq : s.seq = .idle)
    (hhost : s.hostStopped = false) (hin : s.inputs = .access (hostSB a b) :: rest) (hcap : a.toNat < s.src.cap) :
    step s = .next { s with
      src := s.src.write a.toNat [b], inputs := rest, response := some ⟨none, false⟩ } := by
  rw [step_hostDue ⟨hhost, hin⟩, hostAccess_hostSB (by exact hseq) (by exact hcap)]
  rfl

/-- R141, R142: byte writes at rising offsets inside SRC are one store of all the bytes. -/
theorem steps_hostStoreBytes {s : State} {off : Word} {v : Byte} {b : Bytes} {rest : List Input}
    (hseq : s.seq = .idle) (hhost : s.hostStopped = false)
    (hin : s.inputs = script (hostStoreBytes off (v :: b)) ++ rest)
    (hcap : off.toNat + (v :: b).length ≤ s.src.cap) (hwrap : off.toNat + (v :: b).length ≤ 2 ^ 32) :
    steps (v :: b).length s = .next { s with
      src := s.src.write off.toNat (v :: b), inputs := rest, response := some ⟨none, false⟩ } := by
  induction b generalizing s off v with
  | nil =>
    rw [List.length_singleton, steps_one]
    exact step_hostSB hseq hhost hin hcap
  | cons w b ih =>
    simp only [List.length_cons] at hcap hwrap
    have hoff : (off + 1).toNat = off.toNat + 1 := BitVec.toNat_add_of_lt (by simp; omega)
    rw [List.length_cons, steps_succ (step_hostSB hseq hhost hin (by omega))]
    have hone : (s.src.write off.toNat [v]).write (off + 1).toNat (w :: b) = s.src.write off.toNat (v :: w :: b) := by
      rw [hoff]
      exact Memory.write_write_append s.src off.toNat [v] (w :: b)
    rw [← hone]
    exact ih hseq hhost rfl (by simp; omega) (by simp; omega)

/-- Settles O34: the four byte writes store the four bytes of the word side by side. -/
theorem wordWriteIsFourByteWrites : Obligations.WordWriteIsFourByteWrites := by
  intro s a v hseq hhost h4 hcap
  have ha := a.isLt
  have hscript : script [hostSB a (v.extractLsb' 0 8), hostSB (a + 1) (v.extractLsb' 8 8),
        hostSB (a + 2) (v.extractLsb' 16 8), hostSB (a + 3) (v.extractLsb' 24 8)]
      = script (hostStoreBytes a (le32 v)) ++ [] := by
    simp [le32, hostStoreBytes, BitVec.add_assoc]
  have hbytes := steps_hostStoreBytes (s := { s with inputs := script (hostStoreBytes a (le32 v)) ++ [] })
    hseq hhost rfl (by simp; omega) (by simp; omega)
  rw [hscript]
  refine Eq.trans hbytes (Eq.symm (Eq.trans (step_hostDue ⟨hhost, rfl⟩) ?_))
  rw [hostAccess_hostSW (by exact hseq) h4 (by exact hcap)]
  rfl

/-! ### Reads of SRC and DST -/

/-- R83, R84: an accepted host read of a buffer. -/
theorem hostAccess_read_buffer {s : State} {m : Memory} {t : Transaction} (hm : s.buffer t.space = some m)
    (hdir : t.dir = .read) (hok : bufAccessOk m t = true) : hostAccess t s = bufRead m t s := by
  cases hspace : t.space with
  | reg => simp [hspace, State.buffer] at hm
  | src =>
    obtain rfl : s.src = m := by simpa [hspace, State.buffer] using hm
    simp [hostAccess, accessOk, hspace, hdir, hok]
  | dst =>
    obtain rfl : s.dst = m := by simpa [hspace, State.buffer] using hm
    simp [hostAccess, accessOk, hspace, hdir, hok]

theorem bufRead_of_some {m : Memory} {t : Transaction} {b : Bytes} (h : m.read t.offset.toNat t.width = some b)
    (s : State) : bufRead m t s = answerData (busValue b) s := by
  simp [bufRead, h]

/-- R304. -/
theorem bufRead_of_unwritten {m : Memory} {t : Transaction} {k : Nat} (hk : k < t.width)
    (h : m.get (t.offset.toNat + k) = none) (s : State) : bufRead m t s = hostUnwrittenRead s := by
  have hread : m.read t.offset.toNat t.width = none := Memory.read_eq_none.2 ⟨k, hk, h⟩
  simp [bufRead, hread]

/-- R87: the bus value of a single byte. -/
theorem busValue_singleton (b : Byte) : busValue [b] = b.setWidth 32 := by
  simp [busValue, rdle32, byteAt]

/-- Settles O33: four cells that hold the bytes of a word are read as that word, one cell as its byte. -/
theorem bufferReadsAreLittleEndian : Obligations.BufferReadsAreLittleEndian := by
  intro s sp m a rest hm
  have hm : State.buffer { s with inputs := rest } sp = some m := by cases sp <;> exact hm
  refine ⟨fun hdue h4 hcap => ?_, fun hdue hcap => ?_⟩
  · have hok : bufAccessOk m (hostLW sp a) = true := decide_eq_true (.inr ⟨rfl, h4, hcap⟩)
    rw [step_hostDue hdue, hostAccess_read_buffer hm rfl hok]
    refine ⟨fun v hv => ?_, fun ⟨k, hk, hnone⟩ => ⟨_, rfl, bufRead_of_unwritten hk hnone _⟩⟩
    have hread : m.read a.toNat 4 = some (le32 v) :=
      Memory.read_eq_some.2 ⟨le32_length v, fun i hi => by rw [hv i hi, le32_getElem? v hi]⟩
    rw [bufRead_of_some hread, busValue, rdle32_le32]
    rfl
  · have hok : bufAccessOk m (hostLB sp a) = true := decide_eq_true (.inl ⟨rfl, hcap⟩)
    rw [step_hostDue hdue, hostAccess_read_buffer hm rfl hok]
    refine ⟨fun b hb => ?_, fun hnone => ⟨_, rfl, bufRead_of_unwritten (k := 0) Nat.one_pos hnone _⟩⟩
    have hread : m.read a.toNat 1 = some [b] := by simp [Memory.read, hb]
    rw [bufRead_of_some hread, busValue_singleton]
    rfl

/-! ### The hazard -/

/-- R304, R311: a stopped HOST stays stopped over every run. -/
theorem steps_hostStopped {n : Nat} {s t : State} (h : steps n s = .next t) (hs : s.hostStopped = true) :
    t.hostStopped = true := by
  induction n generalizing s with
  | zero =>
    obtain rfl := Host.Outcome.next.inj h
    exact hs
  | succ n ih =>
    cases hstep : step s with
    | next v =>
      rw [steps_succ hstep] at h
      exact ih h (step_hostStopped hstep hs)
    | fault r => simp [steps, hstep] at h
    | refused r => simp [steps, hstep] at h

/-- R83: which accesses to a buffer are accepted. -/
theorem bufAccessOk_iff {m : Memory} {t : Transaction} : bufAccessOk m t = true ↔
    t.width = 1 ∧ t.offset.toNat < m.cap ∨ t.width = 4 ∧ t.offset.toNat % 4 = 0 ∧ t.offset.toNat + 3 < m.cap :=
  decide_eq_true_iff

/-- R311: an accepted write of SRC while a command runs. -/
theorem hostAccess_src_write_of_busy {s : State} {t : Transaction} (hseq : s.seq = .busy) (hspace : t.space = .src)
    (hdir : t.dir = .write) (hok : bufAccessOk s.src t = true) : hostAccess t s = srcWriteHazard t s := by
  simp [hostAccess, accessOk, hspace, hdir, hok, hseq]

/-- Settles O35: the write is the hazard, which stops the HOST for good; a read is `bufRead`. -/
theorem srcWriteWhileBusyIsRecorded : Obligations.SrcWriteWhileBusyIsRecorded := by
  intro s tr rest hseq hdue hspace hok
  have hok : bufAccessOk s.src tr = true := bufAccessOk_iff.2 hok
  refine ⟨fun hdir => ?_, fun hdir => ?_⟩
  · rw [step_hostDue hdue, hostAccess_src_write_of_busy (by exact hseq) hspace hdir (by exact hok)]
    refine ⟨_, rfl, rfl, rfl, rfl, rfl, hseq, rfl, rfl, rfl, rfl, fun n later v hv => ?_, fun x hx => ?_⟩
    · have hstopped : v.hostStopped = true := steps_hostStopped hv rfl
      exact ⟨hstopped, fun hnext => ((stepStopsOnlyForAStoppedAgent v).1).2 ⟨hstopped, hnext⟩⟩
    · rw [srcWriteHazard_src, Memory.get_write, hazardBytes_length, if_neg (by omega)]
  · rw [step_hostDue hdue, hostAccess_read_buffer (m := s.src) (by rw [hspace]; rfl) hdir hok]
    refine ⟨_, rfl, ?_⟩
    unfold bufRead
    split <;> exact ⟨rfl, rfl, rfl⟩

/-! ### Scripts -/

/-- R82, R141: the step of a register write while no command runs. -/
theorem step_hostWR {s : State} {n : RegName} {v : Word} {rest : List Input} (hseq : s.seq = .idle)
    (hhost : s.hostStopped = false) (hin : s.inputs = .access (hostWR n v) :: rest) (hro : n.rights ≠ .ro)
    (hcmd : n ≠ .cmd) :
    step s = .next { s with regs := s.regs.set n v, inputs := rest, response := some ⟨none, false⟩ } := by
  rw [step_hostDue ⟨hhost, hin⟩, hostAccess_hostWR, regWrite_of_stored (by exact hseq) hro hcmd]
  rfl

/-- R141, R142: a script of register writes stores the values one after the other. -/
theorem steps_hostWR {p : RegName × Word} {l : List (RegName × Word)} {s : State} {rest : List Input}
    (hseq : s.seq = .idle) (hhost : s.hostStopped = false)
    (hin : s.inputs = script ((p :: l).map fun p => hostWR p.1 p.2) ++ rest)
    (hstored : ∀ q ∈ p :: l, q.1.rights ≠ .ro ∧ q.1 ≠ .cmd) :
    steps (p :: l).length s = .next { s with
      regs := (p :: l).foldl (fun r q => r.set q.1 q.2) s.regs
      inputs := rest
      response := some ⟨none, false⟩ } := by
  induction l generalizing p s with
  | nil =>
    obtain ⟨hro, hcmd⟩ := hstored p List.mem_cons_self
    rw [List.length_singleton, steps_one]
    exact step_hostWR hseq hhost hin hro hcmd
  | cons q l ih =>
    obtain ⟨⟨hro, hcmd⟩, htail⟩ := List.forall_mem_cons.1 hstored
    rw [List.length_cons, steps_succ (step_hostWR hseq hhost hin hro hcmd)]
    exact ih hseq hhost rfl htail

/-- R53: the four words of a key give its 16 bytes back. -/
theorem keyBytes_of_words {r : Regs} {k : Block16} (h0 : r.key0 = rdle32 k.toList 0) (h1 : r.key1 = rdle32 k.toList 4)
    (h2 : r.key2 = rdle32 k.toList 8) (h3 : r.key3 = rdle32 k.toList 12) : keyBytes r = k := by
  have hword {o : Nat} (ho : o ≤ 12) : le32 (rdle32 k.toList o) = (k.toList.drop o).take 4 :=
    le32_rdle32 (by rw [Vector.length_toList]; omega)
  rw [← Vector.toList_inj]
  calc (keyBytes r).toList = le32 r.key0 ++ le32 r.key1 ++ le32 r.key2 ++ le32 r.key3 := rfl
    _ = (k.toList.drop 0).take 16 := by
      rw [h0, h1, h2, h3, hword (by decide), hword (by decide), hword (by decide), hword (by decide),
        take_drop_append_take_drop _ 0 4 4, take_drop_append_take_drop _ 0 8 4, take_drop_append_take_drop _ 0 12 4]
    _ = k.toList := by rw [List.drop_zero, List.take_of_length_le (by simp)]

/-- Settles O36: five register writes, each of a writable register. -/
theorem ldkeyLoadsTheKey : Obligations.LdkeyLoadsTheKey := by
  intro s k rest hseq hhost hin
  have hwrites := steps_hostWR (p := (.key0, rdle32 k.toList 0)) (l := [(.key1, rdle32 k.toList 4),
    (.key2, rdle32 k.toList 8), (.key3, rdle32 k.toList 12), (.keyLen, BitVec.ofNat 32 keyLenConst)])
    hseq hhost hin (by simp [RegName.rights])
  simp only [List.foldl_cons, List.foldl_nil, Regs.set] at hwrites
  exact ⟨_, hwrites, keyBytes_of_words rfl rfl rfl rfl, rfl, rfl⟩

/-- Settles O37: the byte writes are one store, and the write of SRC_LEN stores a sum that does not wrap. -/
theorem ldsrcLoadsTheSource : Obligations.LdsrcLoadsTheSource := by
  intro s off b rest hseq hhost hcap hlt hin
  have hlen : (off + toWord b.length).toNat = off.toNat + b.length := by
    rw [BitVec.toNat_add, toWord_toNat (by omega), Nat.mod_eq_of_lt (by omega)]
  cases b with
  | nil =>
    refine ⟨_, (steps_one s).trans (step_hostWR hseq hhost hin (by decide) (by decide)), fun x => ?_, hlen, rfl⟩
    simp
  | cons v b =>
    have hin' : s.inputs = script (hostStoreBytes off (v :: b))
        ++ .access (hostWR .srcLen (off + toWord (v :: b).length)) :: rest := by
      rw [hin, hostLDSRC]
      simp [script]
    have hstores := steps_hostStoreBytes hseq hhost hin' hcap (by omega)
    rw [steps_add hstores, steps_one]
    refine ⟨_, step_hostWR hseq hhost rfl (by decide) (by decide), fun x => ?_, hlen, rfl⟩
    exact Memory.get_write ..

end Sys2Proof.Machine
end

section
/-! PAD, CRC32 and the frame of CREATE (40_padding.md R156, 41_crc32.md R170, 42_cipher_port.md R186, R187,
30_encoding.md R134, 70_reset_and_hazards.md R304, R313, R315): the successful ends, the ends at an unwritten cell,
and what every completion does to the source length, the key and the count of draws. -/

namespace Sys2Proof.Machine

/-! ### PAD and CRC32 -/

/-- R156: with a source that fits and is written, and room for it, every check of PAD passes. -/
theorem padCompletion_eq_padSuccess {s : State} {q : Bytes} (hsrc : srcLength s ≤ s.src.cap)
    (hdst : padLen (srcLength s) ≤ s.dst.cap) (hq : srcBytes (srcLength s) s = some q) :
    padCompletion s = padSuccess q s := by
  simp [padCompletion, hsrc.not_gt, hdst.not_gt, hq]

/-- R170: with a source that fits and is written, the check of CRC32 passes. -/
theorem crc32Completion_eq_crc32Success {s : State} {q : Bytes} (hsrc : srcLength s ≤ s.src.cap)
    (hq : srcBytes (srcLength s) s = some q) : crc32Completion s = crc32Success q s := by
  simp [crc32Completion, hsrc.not_gt, hq]

/-- R150: padding leaves the bytes of its input. -/
theorem padBytes_getElem?_of_lt {b : Bytes} {i : Nat} (h : i < b.length) : (padBytes b)[i]? = b[i]? := by
  rw [getElem?_eq_byteAt (h.trans_le (prefix_padBytes b).length_le), getElem?_eq_byteAt h, byteAt_padBytes]

/-- R156: DST after PAD. -/
theorem padSuccess_dst_get (q : Bytes) (s : State) (a : Nat) :
    (padSuccess q s).dst.get a = if a < padLen q.length then (padBytes q)[a]? else s.dst.get a := by
  have hdst : (padSuccess q s).dst = s.dst.write 0 (padBytes q) := rfl
  simp [hdst, Memory.get_write]

/-- Settles O40: every check passes, so PAD ends in `padSuccess`; the padded length is at most DST_CAP and fits a
register. -/
theorem padStoresThePaddedSource : Obligations.PadStoresThePaddedSource := by
  intro s hsrc hdst hcap hwritten
  obtain ⟨q, hq⟩ : ∃ q, srcBytes (srcLength s) s = some q := by
    refine Option.ne_none_iff_exists'.1 fun hnone => ?_
    obtain ⟨a, ha, hget⟩ := Memory.read_eq_none.1 hnone
    exact hwritten a ha (Nat.zero_add a ▸ hget)
  obtain ⟨hlen, hcells⟩ := Memory.read_eq_some.1 hq
  have hlen : q.length = s.regs.srcLen.toNat := hlen
  have hpadded : padLen s.regs.srcLen.toNat < 2 ^ 32 := hdst.trans_lt hcap
  refine ⟨padSuccess q s, congrArg Host.Outcome.next (padCompletion_eq_padSuccess hsrc hdst hq), fun a ha => ?_,
    fun a hlo hhi => ?_, fun a ha => ?_, ?_, ?_, okStatus_statusIs .., rfl, rfl, rfl,
    (padSuccess_completed (by rwa [hlen])).sameOutside⟩
  · rw [padSuccess_dst_get, hlen, if_pos (ha.trans_le (le_padLen _)), padBytes_getElem?_of_lt (by omega),
      ← hcells a ha, Nat.zero_add]
  · rw [padSuccess_dst_get, hlen, if_pos hhi,
      padBytes_getElem?_of_length_le (by omega) (by rwa [padBytes_length, hlen])]
  · rw [padSuccess_dst_get, hlen, if_neg (by omega)]
  · rw [← hlen] at hpadded ⊢
    exact toWord_toNat hpadded
  · rw [← hlen] at hpadded ⊢
    exact toWord_toNat ((Nat.div_le_self ..).trans_lt hpadded)

/-- Settles O41: CRC32 reads the bytes the hypothesis names and ends in `crc32Success`. -/
theorem checksumCommandLeavesTheChecksum : Obligations.ChecksumCommandLeavesTheChecksum := by
  intro s q hsrc hlen hcells
  have hq : srcBytes (srcLength s) s = some q :=
    Memory.read_eq_some.2 ⟨hlen, fun a ha => by rw [Nat.zero_add, hcells a (hlen ▸ ha)]⟩
  exact ⟨_, congrArg Host.Outcome.next (crc32Completion_eq_crc32Success hsrc hq), okStatus_statusIs .., rfl⟩

/-! ### Unwritten cells -/

/-- R15: a source with a cell that holds no value is not read. -/
theorem srcBytes_eq_none {s : State} {n a : Nat} (ha : a < n) (h : s.src.get a = none) : srcBytes n s = none :=
  Memory.read_eq_none.2 ⟨a, ha, by rwa [Nat.zero_add]⟩

section
variable {e : Cipher} {iv : Block16} {s : State}

theorem createCompletion_of_unwritten (hkey : s.regs.keyLen = 16#32) (hsrc : srcLength s ≤ s.src.cap)
    (hdst : headerLen + padLen (srcLength s) ≤ s.dst.cap) (h : srcBytes (srcLength s) s = none) :
    createCompletion e iv s = engineUnwrittenRead s := by
  simp [createCompletion, keyLenOk_of_eq hkey, hsrc.not_gt, hdst.not_gt, h]

theorem padCompletion_of_unwritten (hsrc : srcLength s ≤ s.src.cap) (hdst : padLen (srcLength s) ≤ s.dst.cap)
    (h : srcBytes (srcLength s) s = none) : padCompletion s = engineUnwrittenRead s := by
  simp [padCompletion, hsrc.not_gt, hdst.not_gt, h]

theorem crc32Completion_of_unwritten (hsrc : srcLength s ≤ s.src.cap) (h : srcBytes (srcLength s) s = none) :
    crc32Completion s = engineUnwrittenRead s := by
  simp [crc32Completion, hsrc.not_gt, h]

theorem recoverCompletion_of_unwritten (hkey : s.regs.keyLen = 16#32) (hsrc : srcLength s ≤ s.src.cap)
    (hheader : headerLen ≤ srcLength s) (h : s.src.read 0 headerLen = none) :
    recoverCompletion e s = engineUnwrittenRead s := by
  simp [recoverCompletion, keyLenOk_of_eq hkey, hsrc.not_gt, hheader.not_gt, h]

theorem recoverBody_of_unwritten {h : Header} (hneed : frameNeed h ≤ srcLength s - headerLen)
    (hdst : frameNeed h ≤ s.dst.cap) (hct : s.src.read headerLen (frameNeed h) = none) :
    recoverBody e h s = engineUnwrittenRead s := by
  simp [recoverBody, hneed.not_gt, hdst.not_gt, hct]

end

/-- R304: a command that ends at an unwritten cell does not complete. -/
theorem exec_engineFaulted {i : Instr} {s : State} (h : exec i s = .next (engineUnwrittenRead s)) :
    ∃ t, exec i s = .next t ∧ EngineFaulted s t :=
  ⟨_, h, rfl⟩

/-- Settles O54: every check before the read passes, and the read finds the cell. -/
theorem unwrittenSourceStopsTheEngine : Obligations.UnwrittenSourceStopsTheEngine := by
  intro s hsrc
  refine ⟨fun ⟨a, ha, hcell⟩ => ?_, fun hkey hheader => ⟨fun ⟨a, ha, hcell⟩ => ?_, ?_⟩⟩
  · have hnone : srcBytes (srcLength s) s = none := srcBytes_eq_none ha hcell
    exact ⟨fun hkey hdst =>
        exec_engineFaulted (congrArg Host.Outcome.next (createCompletion_of_unwritten hkey hsrc hdst hnone)),
      fun hdst => exec_engineFaulted (congrArg Host.Outcome.next (padCompletion_of_unwritten hsrc hdst hnone)),
      exec_engineFaulted (congrArg Host.Outcome.next (crc32Completion_of_unwritten hsrc hnone))⟩
  · have hnone : s.src.read 0 headerLen = none := srcBytes_eq_none ha hcell
    exact exec_engineFaulted (congrArg Host.Outcome.next (recoverCompletion_of_unwritten hkey hsrc hheader hnone))
  · intro b hb hneed hdst ⟨a, hlo, hhi, hcell⟩
    obtain ⟨i, rfl⟩ := Nat.exists_eq_add_of_le hlo
    have hnone : s.src.read headerLen (frameNeed (parseHeader b)) = none :=
      Memory.read_eq_none.2 ⟨i, Nat.lt_of_add_lt_add_left hhi, hcell⟩
    have hbody := recoverCompletion_eq_recoverBody (e := Config.cipher) hkey hsrc hheader hb
    have hend := recoverBody_of_unwritten (e := Config.cipher) (h := parseHeader b) (Nat.le_sub_of_add_le' hneed) hdst
      hnone
    exact exec_engineFaulted (congrArg Host.Outcome.next (hbody.trans hend))

/-! ### The frame of CREATE -/

/-- Settles O46: the frame CREATE stored is there byte for byte, and the padded length is whole pages. -/
theorem frameLengthsAgree : Obligations.FrameLengthsAgree := by
  intro s t hcap _ hst hrun herr
  obtain ⟨q, -, -, hdst, hq, rfl⟩ := exec_create_succeeded hst hrun herr
  rw [← srcBytes_length hq] at hdst
  have hframe : 36 + padLen q.length < 2 ^ 32 := hdst.trans_lt hcap
  have hpadded : padLen q.length < 2 ^ 32 := (Nat.le_add_left ..).trans_lt hframe
  have hpages : padLen q.length / 1024 * 1024 = padLen q.length :=
    Nat.div_mul_cancel (Nat.dvd_of_mod_eq_zero (padLen_mod q.length))
  rw [createSuccess_pageCount hpadded, createSuccess_ctLen hpadded, createSuccess_outLen hframe, hpages]
  refine ⟨rfl, rfl, fun a ha => ?_⟩
  obtain ⟨hlen, hcells⟩ := Memory.read_eq_some.1
    (createSuccess_dst_read_frame Config.cipher (Config.ivDraw s.freeIdx) q s)
  rw [← Nat.zero_add a, hcells a ha, getElem?_eq_byteAt (hlen ▸ ha)]
  exact Option.some_ne_none _

/-- Two sequences that differ in a middle part of one length agree in front of it and behind it. -/
theorem getElem?_append_middle {l b c r : Bytes} {a : Nat} (hlen : b.length = c.length)
    (h : a < l.length ∨ l.length + b.length ≤ a) : (l ++ b ++ r)[a]? = (l ++ c ++ r)[a]? := by
  obtain hfront | hback := h
  · rw [List.append_assoc, List.append_assoc, List.getElem?_append_left hfront, List.getElem?_append_left hfront]
  · have hbehind (d : Bytes) (hd : b.length = d.length) : (l ++ d ++ r)[a]? = r[a - (l.length + b.length)]? := by
      rw [List.getElem?_append_right (by rw [List.length_append]; omega), List.length_append, hd]
    rw [hbehind b rfl, hbehind c hlen]

/-- R130, R187: of the 36 header bytes of a frame, the draw decides bytes 16 to 31 and no others. -/
theorem createFrame_getElem?_of_not_iv {e : Cipher} {r : Regs} {iv jv : Block16} {p : Bytes} {a : Nat}
    (h : a < 16 ∨ 32 ≤ a ∧ a < 36) : (createFrame e r jv p)[a]? = (createFrame e r iv p)[a]? := by
  rw [createFrame, createFrame, List.getElem?_append_left (by rw [packHeader_length]; omega),
    List.getElem?_append_left (by rw [packHeader_length]; omega)]
  have hside : a < 16 ∨ 16 + 16 ≤ a := by omega
  exact getElem?_append_middle (by simp [createHeader]) (by simpa using hside)

/-- R202: DST after CREATE. -/
theorem createSuccess_dst_get (e : Cipher) (iv : Block16) (q : Bytes) (s : State) (a : Nat) :
    (createSuccess e iv q s).dst.get a
      = if a < 36 + padLen q.length then (createFrame e s.regs iv (padBytes q))[a]? else s.dst.get a := by
  have hdst : (createSuccess e iv q s).dst = s.dst.write 0 (createFrame e s.regs iv (padBytes q)) := rfl
  simp [hdst, Memory.get_write, createFrame_length]

/-- R186, R200: the draw decides nothing about the end CREATE comes to. -/
theorem createCompletion_draws (e : Cipher) (iv jv : Block16) (s : State) :
    createCompletion e jv s = createCompletion e iv s
    ∨ ∃ q, q.length = srcLength s ∧ createCompletion e iv s = createSuccess e iv q s
        ∧ createCompletion e jv s = createSuccess e jv q s := by
  unfold createCompletion
  dsimp only
  split
  · exact .inl rfl
  · split
    · exact .inl rfl
    · split
      · exact .inl rfl
      · split
        · exact .inl rfl
        · exact .inr ⟨_, srcBytes_length ‹_›, rfl, rfl⟩

/-- Settles O45: both draws come to the same end, and at a success they store frames of one length. -/
theorem drawsChangeOnlyIvAndCiphertext : Obligations.DrawsChangeOnlyIvAndCiphertext := by
  intro e iv jv s t u ht hu
  obtain hsame | ⟨q, hlen, hiv, hjv⟩ := createCompletion_draws e iv jv s
  · obtain rfl : u = t := by rw [hu, ht, hsame]
    exact ⟨fun _ _ => rfl, rfl⟩
  · obtain rfl := ht.trans hiv
    obtain rfl := hu.trans hjv
    refine ⟨fun a ha => ?_, rfl⟩
    have hbytes : a < 36 + padLen q.length → a < 16 ∨ 32 ≤ a ∧ a < 36 := by
      rw [hlen, srcLength]
      omega
    rw [createSuccess_dst_get, createSuccess_dst_get]
    split
    · exact createFrame_getElem?_of_not_iv (hbytes ‹_›)
    · rfl

/-! ### What every completion does -/

theorem errorCompletion_srcLen (e : CmdError) (s : State) : (errorCompletion e s).regs.srcLen = s.regs.srcLen := by
  rw [errorCompletion_regs]
  cases usesKey s.regs.cmd <;> rfl

theorem errorCompletion_cmd (e : CmdError) (s : State) : (errorCompletion e s).regs.cmd = s.regs.cmd := by
  rw [errorCompletion_regs]
  cases usesKey s.regs.cmd <;> rfl

/-- Settles O55: none of the three ends a completion can have writes SRC_LEN or CMD. -/
theorem commandsKeepSrcLenAndCmd : Obligations.CommandsKeepSrcLenAndCmd := by
  intro s t hst
  obtain ⟨e, rfl⟩ | rfl | ⟨i, -, hdone⟩ := complete_ends hst
  · exact ⟨errorCompletion_srcLen e s, errorCompletion_cmd e s⟩
  · exact ⟨rfl, rfl⟩
  · exact ⟨hdone.srcLen, hdone.cmd⟩

/-- R271: a CREATE or RECOVER that finds another KEY_LEN than 16 reports it. -/
theorem exec_of_keyLen_ne {i : Instr} {s : State} (hi : i = .create ∨ i = .recover) (hkey : s.regs.keyLen ≠ 16#32) :
    exec i s = .next (errorCompletion .invalidKeyLength s) := by
  obtain rfl | rfl := hi
  · exact congrArg Host.Outcome.next (createCompletion_of_keyLen_ne hkey)
  · exact congrArg Host.Outcome.next (recoverCompletion_of_keyLen_ne hkey)

/-- Settles O57: the first completion wiped KEY_LEN and left the block idle, so the word is issued and its key check
fails. -/
theorem secondUseNeedsAFreshKey : Obligations.SecondUseNeedsAFreshKey := by
  intro s t i j hi hj hdue hhost hcmd hst hrun
  rw [step_engineDue hdue] at hst
  have huses : decode s.regs.cmd = .ok .create ∨ decode s.regs.cmd = .ok .recover := by
    obtain rfl | rfl := hi
    · exact .inl hcmd
    · exact .inr hcmd
  have hwiped : t.regs.keyLen = 0#32 :=
    ((keyIsWipedByCreateAndRecoverOnly { s with inputs := [] } t hdue.2.1 hst hrun).1 huses).1
  obtain ⟨hseq, -, -, -, -, -, hhost', -⟩ | rfl := complete_idle_or_faulted hst
  · have hissue := step_issue (s := { t with inputs := script [hostWR .cmd (encode j)] }) (rest := []) hseq
      (hhost'.trans hhost) rfl
    have hkey : (issue (encode j) t).regs.keyLen ≠ 16#32 := by simp [hwiped]
    have hdue' : State.engineDue { issue (encode j) t with inputs := [], response := some ⟨none, false⟩ } [] :=
      ⟨rfl, hrun, .inr ⟨rfl, rfl⟩⟩
    have hcompletes := (stepRunsTheDecodedCommand _ [] j hdue' (decode_eq_ok_iff.2 rfl)).trans
      (exec_of_keyLen_ne hj hkey)
    exact ⟨_, (steps_succ hissue 1).trans ((steps_one _).trans hcompletes), by simp, errorCompletion_code ..⟩
  · simp at hrun

/-- R186: RECOVER takes no draw, whichever end it comes to. -/
theorem recoverBody_freeIdx (e : Cipher) (h : Header) (s : State) : (recoverBody e h s).freeIdx = s.freeIdx := by
  obtain ⟨-, hend⟩ | ⟨-, -, hend⟩ | ⟨-, -, -, hend⟩ | ⟨ct, -, -, -, hend⟩ := recoverBody_cases e h s <;> rw [hend]
  · exact errorCompletion_freeIdx _ s
  · exact errorCompletion_freeIdx _ s
  · rfl
  · rfl

/-- R186: the commands but CREATE take no draw. -/
theorem exec_freeIdx {i : Instr} {s t : State} (hi : i ≠ .create) (h : exec i s = .next t) :
    t.freeIdx = s.freeIdx := by
  cases i <;> obtain rfl := Host.Outcome.next.inj h
  case nop => rfl
  case create => exact absurd rfl hi
  case recover =>
    obtain ⟨-, h⟩ | ⟨-, -, h⟩ | ⟨-, -, -, h⟩ | ⟨-, -, -, -, h⟩ | ⟨b, -, -, -, -, h⟩ :=
      recoverCompletion_cases Config.cipher s <;> rw [h]
    · exact errorCompletion_freeIdx _ s
    · exact errorCompletion_freeIdx _ s
    · exact errorCompletion_freeIdx _ s
    · rfl
    · exact recoverBody_freeIdx ..
  case pad =>
    obtain ⟨-, h⟩ | ⟨-, -, h⟩ | ⟨-, -, -, h⟩ | ⟨q, -, -, -, h⟩ := padCompletion_cases s <;> rw [h]
    · exact errorCompletion_freeIdx _ s
    · exact errorCompletion_freeIdx _ s
    · rfl
    · rfl
  case crc32 =>
    obtain ⟨-, h⟩ | ⟨-, -, h⟩ | ⟨q, -, -, h⟩ := crc32Completion_cases s <;> rw [h]
    · exact errorCompletion_freeIdx _ s
    · rfl
    · rfl

/-- R186: CREATE takes a draw only where every check has passed. -/
theorem createCompletion_freeIdx (e : Cipher) (iv : Block16) (s : State) :
    (createCompletion e iv s).freeIdx = s.freeIdx ∨ ∃ q, createCompletion e iv s = createSuccess e iv q s := by
  obtain ⟨-, h⟩ | ⟨-, -, h⟩ | ⟨-, -, -, h⟩ | ⟨-, -, -, -, h⟩ | ⟨q, -, -, -, -, h⟩ := createCompletion_cases e iv s <;>
    rw [h]
  · exact .inl (errorCompletion_freeIdx _ s)
  · exact .inl (errorCompletion_freeIdx _ s)
  · exact .inl (errorCompletion_freeIdx _ s)
  · exact .inl rfl
  · exact .inr ⟨q, rfl⟩

/-- Settles O59: `createSuccess` takes one draw, and no other end of a completion takes any. -/
theorem onlyASuccessfulCreateDraws : Obligations.OnlyASuccessfulCreateDraws := by
  intro s t hengine hst
  cases hcmd : decode s.regs.cmd with
  | error w =>
    obtain rfl := Host.Outcome.next.inj ((complete_of_illegal hcmd).symm.trans hst)
    exact ⟨fun h => (nomatch h.1), fun _ => errorCompletion_freeIdx _ s⟩
  | ok i =>
    have hexec : exec i s = .next t := by simpa [complete, hcmd] using hst
    by_cases hi : i = .create
    · subst hi
      refine ⟨fun ⟨_, hrun, herr⟩ => ?_, fun hnot => ?_⟩
      · obtain ⟨q, -, -, -, -, rfl⟩ := exec_create_succeeded hexec hrun herr
        rfl
      · obtain rfl := Host.Outcome.next.inj hexec
        obtain hsame | ⟨q, hdone⟩ := createCompletion_freeIdx Config.cipher (Config.ivDraw s.freeIdx) s
        · exact hsame
        · refine absurd ⟨rfl, ?_, ?_⟩ hnot <;> rw [hdone]
          · exact hengine
          · exact okStatus_error ..
    · exact ⟨fun h => absurd (Except.ok.inj h.1) hi, fun _ => exec_freeIdx hi hexec⟩

end Sys2Proof.Machine
end

section
/-! The inputs of a completion (10_state.md R61, 45_control.md R258): from two states that agree on them, every
command comes to the same end and leaves the same results. -/

namespace Sys2Proof.Machine

/-! ### What the checks and the reads see -/

theorem SameCommandInputs.srcLength_eq {s u : State} (h : SameCommandInputs s u) : srcLength u = srcLength s := by
  obtain ⟨-, -, -, -, hlen, -⟩ := h
  rw [srcLength, srcLength, hlen]

theorem SameCommandInputs.keyLenOk_eq {s u : State} (h : SameCommandInputs s u) :
    keyLenOk u.regs = keyLenOk s.regs := by
  obtain ⟨-, -, -, -, -, hkey, -⟩ := h
  rw [keyLenOk, keyLenOk, hkey]

theorem SameCommandInputs.keyBytes_eq {s u : State} (h : SameCommandInputs s u) :
    keyBytes u.regs = keyBytes s.regs := by
  obtain ⟨-, -, -, -, -, -, h0, h1, h2, h3, -⟩ := h
  simp only [keyBytes, h0, h1, h2, h3]

theorem SameCommandInputs.src_eq {s u : State} (h : SameCommandInputs s u) : u.src = s.src := by
  obtain ⟨-, -, -, -, -, -, -, -, -, -, hsrc, -⟩ := h
  exact hsrc

theorem SameCommandInputs.dst_cap_eq {s u : State} (h : SameCommandInputs s u) : u.dst.cap = s.dst.cap := by
  obtain ⟨-, -, -, -, -, -, -, -, -, -, -, hcap, -⟩ := h
  exact hcap

theorem SameCommandInputs.freeIdx_eq {s u : State} (h : SameCommandInputs s u) : u.freeIdx = s.freeIdx := by
  obtain ⟨-, -, -, -, -, -, -, -, -, -, -, -, hidx⟩ := h
  exact hidx

theorem SameCommandInputs.srcBytes_eq {s u : State} (h : SameCommandInputs s u) (n : Nat) :
    srcBytes n u = srcBytes n s := by
  rw [srcBytes, srcBytes, h.src_eq]

/-- R202: the frame is a function of the inputs and the draw. -/
theorem SameCommandInputs.createFrame_eq {s u : State} (h : SameCommandInputs s u) (e : Cipher) (iv : Block16)
    (p : Bytes) : createFrame e u.regs iv p = createFrame e s.regs iv p := by
  have hkey := h.keyBytes_eq
  obtain ⟨-, hprotocol, hproduct, happ, -⟩ := h
  simp only [createFrame, createHeader, hprotocol, hproduct, happ, hkey]

/-! ### The same outcome -/

/-- R61: what the completions `s` to `t` and `u` to `v` have in common: both complete or neither does, and where they
complete they report the same STATUS fields and lengths, store the same bytes, agree on the inputs again and, without an
error, on each register the command writes. -/
def SameOutcome (s u t v : State) : Prop :=
  t.engineStopped = v.engineStopped
  ∧ (t.engineStopped = false →
    (∀ (k : Bool) (c : BitVec 4), StatusIs s.regs.status t.regs.status false true (decide (c ≠ 0#4)) k c →
      StatusIs u.regs.status v.regs.status false true (decide (c ≠ 0#4)) k c)
    ∧ (decode s.regs.cmd ≠ .ok .nop →
      v.regs.outLen = t.regs.outLen ∧ v.regs.ctLen = t.regs.ctLen
        ∧ ∀ a, a < t.regs.outLen.toNat → v.dst.get a = t.dst.get a)
    ∧ SameCommandInputs t v
    ∧ (statusError t.regs.status = false →
      (decode s.regs.cmd = .ok .create ∨ decode s.regs.cmd = .ok .recover ∨ decode s.regs.cmd = .ok .pad →
        v.regs.pageCount = t.regs.pageCount)
      ∧ (decode s.regs.cmd = .ok .create ∨ decode s.regs.cmd = .ok .recover ∨ decode s.regs.cmd = .ok .crc32 →
        v.regs.crcComputed = t.regs.crcComputed)
      ∧ (decode s.regs.cmd = .ok .create ∨ decode s.regs.cmd = .ok .recover →
        v.regs.crcStored = t.regs.crcStored ∧ v.regs.iv0 = t.regs.iv0 ∧ v.regs.iv1 = t.regs.iv1
          ∧ v.regs.iv2 = t.regs.iv2 ∧ v.regs.iv3 = t.regs.iv3)))

/-- R36: two STATUS words written with the same fields have the same fields. -/
theorem StatusIs.transfer {old old' : Word} {b d e k b' d' e' k' : Bool} {c c' : BitVec 4}
    (h : StatusIs old (writeStatus old b d e k c) b' d' e' k' c') :
    StatusIs old' (writeStatus old' b d e k c) b' d' e' k' c' := by
  simpa [StatusIs] using h

/-- R304: where the one command does not complete, neither does the other. -/
theorem SameOutcome.of_fault (s u : State) : SameOutcome s u (engineUnwrittenRead s) (engineUnwrittenRead u) :=
  ⟨rfl, nofun⟩

/-- R280: an error completion writes constants, and wipes the key by the word in CMD. -/
theorem SameCommandInputs.errorCompletion {s u : State} (h : SameCommandInputs s u) (e : CmdError) :
    SameCommandInputs (errorCompletion e s) (errorCompletion e u) := by
  obtain ⟨hcmd, hprotocol, hproduct, happ, hlen, hkey, h0, h1, h2, h3, hsrc, hcap, hidx⟩ := h
  simp only [SameCommandInputs, errorCompletion_regs, errorCompletion_src, errorCompletion_dst,
    errorCompletion_freeIdx, hcmd]
  cases usesKey s.regs.cmd
  · exact ⟨hcmd, hprotocol, hproduct, happ, hlen, hkey, h0, h1, h2, h3, hsrc, hcap, hidx⟩
  · exact ⟨hcmd, hprotocol, hproduct, happ, hlen, rfl, rfl, rfl, rfl, rfl, hsrc, hcap, hidx⟩

theorem SameOutcome.of_error {s u : State} (h : SameCommandInputs s u) (hengine : s.engineStopped = u.engineStopped)
    (e : CmdError) : SameOutcome s u (errorCompletion e s) (errorCompletion e u) := by
  refine ⟨?_, fun _ => ⟨fun k c hstatus => ?_, fun _ => ?_, h.errorCompletion e, fun herr => ?_⟩⟩
  · simpa using hengine
  · rw [errorCompletion_status] at hstatus ⊢
    exact hstatus.transfer
  · simp [errorCompletion_regs]
  · simp at herr

/-- R61: the results of a successful completion of `i`, in `t` and in `v`. -/
def SameResults (i : Instr) (t v : State) : Prop :=
  SameCommandInputs t v
  ∧ (i ≠ .nop → v.regs.outLen = t.regs.outLen ∧ v.regs.ctLen = t.regs.ctLen
    ∧ ∀ a, a < t.regs.outLen.toNat → v.dst.get a = t.dst.get a)
  ∧ (i = .create ∨ i = .recover ∨ i = .pad → v.regs.pageCount = t.regs.pageCount)
  ∧ (i = .create ∨ i = .recover ∨ i = .crc32 → v.regs.crcComputed = t.regs.crcComputed)
  ∧ (i = .create ∨ i = .recover → v.regs.crcStored = t.regs.crcStored ∧ v.regs.iv0 = t.regs.iv0
    ∧ v.regs.iv1 = t.regs.iv1 ∧ v.regs.iv2 = t.regs.iv2 ∧ v.regs.iv3 = t.regs.iv3)

/-- R254: two successful completions of one command with the same results; the integrity result is RECOVER's
comparison, of registers that agree. -/
theorem SameOutcome.of_success {i : Instr} {s u t v : State} (hcmd : decode s.regs.cmd = .ok i)
    (hengine : s.engineStopped = u.engineStopped) (ht : Completed i s t) (hv : Completed i u v)
    (h : SameResults i t v) : SameOutcome s u t v := by
  obtain ⟨hinputs, hlengths, hpages, hcrc, hframe⟩ := h
  obtain ⟨k, hk, hother, hrecover⟩ := ht.status
  obtain ⟨k', hk', hother', hrecover'⟩ := hv.status
  have hsame : k' = k := by
    by_cases hi : i = .recover
    · rw [hrecover hi, hrecover' hi, hcrc (.inr (.inl hi)), (hframe (.inr hi)).1]
    · rw [hother hi, hother' hi]
  refine ⟨ht.engineStopped.trans (hengine.trans hv.engineStopped.symm),
    fun _ => ⟨fun k₀ c hstatus => ?_, ?_, hinputs, fun _ => ?_⟩⟩
  · rw [hk] at hstatus
    rw [hk', hsame]
    exact hstatus.transfer
  · simpa [hcmd] using hlengths
  · simpa [hcmd] using And.intro hpages ⟨hcrc, hframe⟩

/-! ### The results of each command -/

/-- The same bytes stored from offset 0 are the same cells below OUT_LEN, whatever either buffer held before. -/
theorem dst_get_eq_of_stored {t v : State} {m k : Memory} {b : Bytes} (ht : t.dst = m.write 0 b)
    (hv : v.dst = k.write 0 b) (hout : t.regs.outLen = toWord b.length) {a : Nat} (ha : a < t.regs.outLen.toNat) :
    v.dst.get a = t.dst.get a := by
  have hle : (toWord b.length).toNat ≤ b.length := by
    rw [toWord, BitVec.toNat_ofNat]
    exact Nat.mod_le ..
  rw [hout] at ha
  rw [ht, hv, Memory.get_write, Memory.get_write, if_pos (by omega), if_pos (by omega)]

section
variable {s u : State} (h : SameCommandInputs s u)
include h

theorem nop_sameResults : SameResults .nop (completeOk false s) (completeOk false u) :=
  ⟨h, by simp, by simp, by simp, by simp⟩

theorem crc32Success_sameResults (q : Bytes) : SameResults .crc32 (crc32Success q s) (crc32Success q u) :=
  ⟨h, fun _ => ⟨rfl, rfl, nofun⟩, by simp, fun _ => rfl, by simp⟩

theorem padSuccess_sameResults (q : Bytes) : SameResults .pad (padSuccess q s) (padSuccess q u) := by
  have hout : (padSuccess q s).regs.outLen = toWord (padBytes q).length := by simp [padSuccess]
  obtain ⟨hcmd, hprotocol, hproduct, happ, hlen, hkey, h0, h1, h2, h3, hsrc, hcap, hidx⟩ := h
  exact ⟨⟨hcmd, hprotocol, hproduct, happ, hlen, hkey, h0, h1, h2, h3, hsrc, hcap, hidx⟩,
    fun _ => ⟨rfl, rfl, fun _ => dst_get_eq_of_stored (m := s.dst) (k := u.dst) rfl rfl hout⟩, fun _ => rfl,
    by simp, by simp⟩

theorem createSuccess_sameResults (e : Cipher) (iv : Block16) (q : Bytes) :
    SameResults .create (createSuccess e iv q s) (createSuccess e iv q u) := by
  have ht : (createSuccess e iv q s).dst = s.dst.write 0 (createFrame e s.regs iv (padBytes q)) := rfl
  have hv : (createSuccess e iv q u).dst = u.dst.write 0 (createFrame e s.regs iv (padBytes q)) := by
    rw [← h.createFrame_eq]
    rfl
  have hout : (createSuccess e iv q s).regs.outLen = toWord (createFrame e s.regs iv (padBytes q)).length := by
    rw [createFrame_length]
    rfl
  obtain ⟨hcmd, hprotocol, hproduct, happ, hlen, -, -, -, -, -, hsrc, hcap, hidx⟩ := h
  exact ⟨⟨hcmd, hprotocol, hproduct, happ, hlen, rfl, rfl, rfl, rfl, rfl, hsrc, hcap, congrArg (· + 1) hidx⟩,
    fun _ => ⟨rfl, rfl, fun _ => dst_get_eq_of_stored ht hv hout⟩, fun _ => rfl, fun _ => rfl,
    fun _ => ⟨rfl, rfl, rfl, rfl, rfl⟩⟩

theorem recoverSuccess_sameResults (e : Cipher) (hd : Header) {ct : Bytes} (hneed : ct.length = frameNeed hd) :
    SameResults .recover (recoverSuccess e hd ct s) (recoverSuccess e hd ct u) := by
  have hkey := h.keyBytes_eq
  have ht : (recoverSuccess e hd ct s).dst = s.dst.write 0 (decryptWith e (keyBytes s.regs) hd.iv ct) := rfl
  have hv : (recoverSuccess e hd ct u).dst = u.dst.write 0 (decryptWith e (keyBytes s.regs) hd.iv ct) := by
    rw [← hkey]
    rfl
  have hout : (recoverSuccess e hd ct s).regs.outLen = toWord (decryptWith e (keyBytes s.regs) hd.iv ct).length := by
    rw [decryptWith_length, hneed]
    rfl
  have hcrc : (recoverSuccess e hd ct u).regs.crcComputed = (recoverSuccess e hd ct s).regs.crcComputed := by
    rw [recoverSuccess, hkey]
    rfl
  obtain ⟨hcmd, -, -, -, hlen, -, -, -, -, -, hsrc, hcap, hidx⟩ := h
  exact ⟨⟨hcmd, rfl, rfl, rfl, hlen, rfl, rfl, rfl, rfl, rfl, hsrc, hcap, hidx⟩,
    fun _ => ⟨rfl, rfl, fun _ => dst_get_eq_of_stored ht hv hout⟩, fun _ => rfl, fun _ => hcrc,
    fun _ => ⟨rfl, rfl, rfl, rfl, rfl⟩⟩

/-! ### The commands -/

variable (hengine : s.engineStopped = u.engineStopped)
include hengine

theorem padCompletion_sameOutcome (hcmd : decode s.regs.cmd = .ok .pad) :
    SameOutcome s u (padCompletion s) (padCompletion u) := by
  unfold padCompletion
  simp only [h.srcLength_eq, h.src_eq, h.dst_cap_eq, h.srcBytes_eq]
  split
  · exact .of_error h hengine _
  · split
    · exact .of_error h hengine _
    · split
      · exact .of_fault s u
      · rename_i q hq
        have hroom : padLen q.length ≤ s.dst.cap := by rw [srcBytes_length hq]; omega
        exact .of_success hcmd hengine (padSuccess_completed hroom) (padSuccess_completed (h.dst_cap_eq ▸ hroom))
          (padSuccess_sameResults h q)

theorem crc32Completion_sameOutcome (hcmd : decode s.regs.cmd = .ok .crc32) :
    SameOutcome s u (crc32Completion s) (crc32Completion u) := by
  unfold crc32Completion
  simp only [h.srcLength_eq, h.src_eq, h.srcBytes_eq]
  split
  · exact .of_error h hengine _
  · split
    · exact .of_fault s u
    · exact .of_success hcmd hengine (crc32Success_completed _ s) (crc32Success_completed _ u)
        (crc32Success_sameResults h _)

theorem createCompletion_sameOutcome (e : Cipher) (iv : Block16) (hcmd : decode s.regs.cmd = .ok .create) :
    SameOutcome s u (createCompletion e iv s) (createCompletion e iv u) := by
  unfold createCompletion
  simp only [h.srcLength_eq, h.keyLenOk_eq, h.src_eq, h.dst_cap_eq, h.srcBytes_eq]
  split
  · exact .of_error h hengine _
  · split
    · exact .of_error h hengine _
    · split
      · exact .of_error h hengine _
      · split
        · exact .of_fault s u
        · rename_i q hq
          have hroom : headerLen + padLen q.length ≤ s.dst.cap := by rw [srcBytes_length hq]; omega
          exact .of_success hcmd hengine (createSuccess_completed hroom)
            (createSuccess_completed (h.dst_cap_eq ▸ hroom)) (createSuccess_sameResults h e iv q)

theorem recoverBody_sameOutcome (e : Cipher) (hd : Header) (hcmd : decode s.regs.cmd = .ok .recover) :
    SameOutcome s u (recoverBody e hd s) (recoverBody e hd u) := by
  unfold recoverBody
  simp only [h.srcLength_eq, h.src_eq, h.dst_cap_eq]
  split
  · exact .of_error h hengine _
  · split
    · exact .of_error h hengine _
    · split
      · exact .of_fault s u
      · rename_i hdst _ ct hct
        have hlen : ct.length = frameNeed hd := (Memory.read_eq_some.1 hct).1
        have hroom : frameNeed hd ≤ s.dst.cap := Nat.le_of_not_lt hdst
        exact .of_success hcmd hengine (recoverSuccess_completed hlen hroom)
          (recoverSuccess_completed hlen (h.dst_cap_eq ▸ hroom)) (recoverSuccess_sameResults h e hd hlen)

theorem recoverCompletion_sameOutcome (e : Cipher) (hcmd : decode s.regs.cmd = .ok .recover) :
    SameOutcome s u (recoverCompletion e s) (recoverCompletion e u) := by
  unfold recoverCompletion
  simp only [h.srcLength_eq, h.keyLenOk_eq, h.src_eq]
  split
  · exact .of_error h hengine _
  · split
    · exact .of_error h hengine _
    · split
      · exact .of_error h hengine _
      · split
        · exact .of_fault s u
        · exact recoverBody_sameOutcome h hengine e _ hcmd

/-- R61: whatever word stands in CMD, its completions from two states that agree on the inputs have the same outcome. -/
theorem complete_sameOutcome {t v : State} (ht : complete s = .next t) (hv : complete u = .next v) :
    SameOutcome s u t v := by
  have hword : u.regs.cmd = s.regs.cmd := h.1
  cases hcmd : decode s.regs.cmd with
  | error w =>
    obtain rfl := Host.Outcome.next.inj ((complete_of_illegal hcmd).symm.trans ht)
    obtain rfl := Host.Outcome.next.inj ((complete_of_illegal (hword ▸ hcmd)).symm.trans hv)
    exact .of_error h hengine _
  | ok i =>
    have hs : exec i s = .next t := by simpa [complete, hcmd] using ht
    have hu : exec i u = .next v := by simpa [complete, hword, hcmd] using hv
    cases i <;> obtain rfl := Host.Outcome.next.inj hs <;> obtain rfl := Host.Outcome.next.inj hu
    case nop => exact .of_success hcmd hengine (nop_completed s) (nop_completed u) (nop_sameResults h)
    case create =>
      rw [h.freeIdx_eq]
      exact createCompletion_sameOutcome h hengine _ _ hcmd
    case recover => exact recoverCompletion_sameOutcome h hengine _ hcmd
    case pad => exact padCompletion_sameOutcome h hengine hcmd
    case crc32 => exact crc32Completion_sameOutcome h hengine hcmd

end

/-- Settles O60: `SameOutcome` is what it asks for. -/
theorem resultDependsOnTheInputsOnly : Obligations.ResultDependsOnTheInputsOnly :=
  fun _ _ _ _ h hs hu _ ht hv => complete_sameOutcome h (hs.trans hu.symm) ht hv

end Sys2Proof.Machine
end
